-- ==== Sys2Proof/Word.lean ====
section
/-! DEFINITION. The words of the unit.

Register contents, the data bus and command words are natural numbers. R9: "Every register holds an unsigned integer";
no value is signed, arithmetic is exact, and "a value is truncated only where a rule says so". The widths NMAX, EW and PW
are open parameters (R6), so a width is not part of a type: `trunc` (Machine/Bits.lean) truncates where a rule does, and
the invariant of Safety.lean says that every register stays below its width. DESIGN CHOICE (log entry 1), safe. -/

namespace Sys2Proof

/-- A port address, "the 5-bit port address" (R60): the one word whose width is fixed. -/
abbrev Addr := BitVec 5

end Sys2Proof
end

