-- ==== Sys2Proof/Machine/Integers.lean ====
section
/-! DEFINITION. The integer functions: gcd, decryption exponent, derived round count. All exact (R140). -/

namespace Sys2Proof

/-- The loop of R141, at most `fuel` passes. -/
def euclidLoop : Nat → Nat → Nat → Nat
  | 0, p, _ => p
  | fuel + 1, p, q => if q = 0 then p else euclidLoop fuel q (p % q)

/-- R141 `gcd(p, q)`: "while q != 0: (p, q) <- (q, p mod q)". q falls at each pass, so q passes are enough. -/
def euclid (p q : Nat) : Nat := euclidLoop q p q

/-- R14 `M_n = 2^n - 1`, the order of the multiplicative group of GF(2^n). -/
def groupOrder (n : Nat) : Nat := 2 ^ n - 1

/-- The search of R145 from `t` upwards, over `fuel` values of t. -/
def dexpFrom (e m : Nat) : Nat → Nat → Option Nat
  | 0, _ => none
  | fuel + 1, t => if (1 + t * m) % e = 0 then some ((1 + t * m) / e) else dexpFrom e m fuel (t + 1)

/-- R145 `dexp(e, n)`: t = 1, 2, ..., e - 1 in ascending order; `none` when no t serves. -/
def dexp (e n : Nat) : Option Nat := dexpFrom e (groupOrder n) (e - 1) 1

/-- The search of R176 from `r` upwards; `fuel` more values at most. -/
def deriveRoundsFrom (e n : Nat) : Nat → Nat → Nat
  | 0, r => r
  | fuel + 1, r => if 2 ^ n ≤ e ^ r then r else deriveRoundsFrom e n fuel (r + 1)

/-- R176 `r0(e, n)`: "the smallest integer r >= 1 with e^r >= 2^n", for e >= 2 and n >= 1. As e >= 2, r = n serves. -/
def deriveRounds (e n : Nat) : Nat := deriveRoundsFrom e n n 1

end Sys2Proof
end

