-- ==== Sys2Proof/Machine/Bits.lean ====
section
/-! DEFINITION. Bit fields, truncation, and the source's codec between bit sequences and integers. -/

namespace Sys2Proof

/-- The number of bits of `v` up to its highest 1. -/
def bitLen (v : Nat) : Nat := if v = 0 then 0 else v.log2 + 1

/-- `v` fits a register of `N` bits. -/
def fits (N : Nat) (v : Nat) : Bool := decide (bitLen v ≤ N)

/-- R12 `trunc_N(v)`: `v mod 2^N`. A value that has no bit above bit `N - 1` is left as it is, so that the value is
found without computing `2^N`, whose `N` may be an open parameter (`Laws.trunc_eq_mod`: it is `v % 2 ^ N`). -/
def trunc (N : Nat) (v : Nat) : Nat := if fits N v then v else v % 2 ^ N

/-- R8 `v[hi:lo]`, with `len = hi - lo + 1`. -/
def bitField (v : Nat) (lo len : Nat) : Nat := v / 2 ^ lo % 2 ^ len

/-- R11 `to_decimal`: a bit sequence, most significant bit first, as an integer. -/
def toDecimal (bits : List Bool) : Nat := bits.foldl (fun acc b => 2 * acc + b.toNat) 0

/-- R11 `to_binary(v, w)`: the `w`-bit sequence of `v mod 2^w`, most significant bit first. -/
def toBinary (v : Nat) : Nat → List Bool
  | 0 => []
  | w + 1 => v.testBit w :: toBinary v w

end Sys2Proof
end

