-- ==== Sys2Proof/Machine/Poly.lean ====
section
/-! DEFINITION. Polynomials over GF(2) as integers (R10, R13): bit i is the coefficient of x^i. -/

namespace Sys2Proof

/-- R13: "`clmul(a, b)` is the carry-less product: the XOR over every i with `b[i] = 1` of `a * 2^i`", over i below
the count. -/
def clmulBelow (a b : Nat) : Nat → Nat
  | 0 => 0
  | i + 1 => clmulBelow a b i ^^^ (if b.testBit i then a * 2 ^ i else 0)

/-- R13 `clmul(a, b)`. -/
def clmul (a b : Nat) : Nat := clmulBelow a b (bitLen b)

/-- Long division by `p` of degree `deg`: the bits `deg + k - 1` down to `deg` of `c` are cleared in turn. -/
def polymodLoop (p deg : Nat) : Nat → Nat → Nat
  | 0, c => c
  | k + 1, c => polymodLoop p deg k (if c.testBit (deg + k) then c ^^^ p * 2 ^ k else c)

/-- R13: "`polymod(c, P)` is the remainder of the polynomial c divided by the polynomial P over GF(2)". -/
def polymod (c p : Nat) : Nat := polymodLoop p p.log2 (bitLen c - p.log2) c

/-- R7: an entry of the table for width `n`: "bit n set and bits above n clear, and … irreducible over GF(2)".
A polynomial of degree n that has a factor of degree 1 to n-1 has one of degree at most n/2. -/
def irreducible (n p : Nat) : Bool :=
  bitLen p == n + 1 && (List.range (2 ^ (n / 2 + 1))).all fun q => q < 2 || polymod p q != 0

/-- The loop of R123, `fuel` passes at most: "while x != 0 and y != 0". -/
def gfMulLoop (n p : Nat) : Nat → Nat → Nat → Nat → Nat
  | 0, acc, _, _ => acc
  | fuel + 1, acc, x, y =>
    if x = 0 ∨ y = 0 then acc
    else
      let acc' := if y.testBit 0 then acc ^^^ x else acc
      let x' := x * 2
      gfMulLoop n p fuel acc' (if x'.testBit n then x' ^^^ p else x') (y / 2)

/-- R13 `gf_mul_n(a, b)`, the datapath of R123. "The loop runs at most n passes, because y loses a bit each pass". -/
def gfMul (n p : Nat) (a b : Nat) : Nat := gfMulLoop n p n 0 a b

/-- R13 `gf_pow_n(a, e)`: the product of e copies of a. -/
def gfPow (n p : Nat) (a : Nat) : Nat → Nat
  | 0 => 1
  | e + 1 => gfMul n p a (gfPow n p a e)

/-- The loop of R125, right to left; `fuel` is at least the number of bits of the exponent. -/
def sqMulLoop (n p : Nat) : Nat → Nat → Nat → Nat → Nat
  | 0, res, _, _ => res
  | fuel + 1, res, base, k =>
    if k = 0 then res
    else
      sqMulLoop n p fuel (if k.testBit 0 then gfMul n p res base else res) (gfMul n p base base) (k / 2)

/-- R125, square-and-multiply. -/
def powSquare (n p : Nat) (a : Nat) (e : Nat) : Nat := sqMulLoop n p (bitLen e) 1 a e

/-- R126, naive repeated multiplication: "repeat e times: res <- gf_mul_n(res, a)". -/
def powNaiveLoop (n p : Nat) (a : Nat) : Nat → Nat → Nat
  | 0, res => res
  | e + 1, res => powNaiveLoop n p a e (gfMul n p res a)

/-- R126. -/
def powNaive (n p : Nat) (a : Nat) (e : Nat) : Nat := powNaiveLoop n p a e 1

end Sys2Proof
end

