-- ==== Sys2Proof/Config.lean ====
section
/-! DEFINITION. What an implementation fixes (R6) and the free values. Every open parameter is an opaque constant
without a value, and the constraint the spec puts on it holds by the form of its definition (log entries 2, 3, 4, 7). -/

namespace Sys2Proof

/-- How far NMAX lies above 17. -/
opaque Config.nmaxExtra : Nat

/-- R6 `NMAX`, "largest field width n the WIDTH register may select"; "`NMAX >= 17`". OPEN (D2). -/
def Config.NMAX : Nat := Config.nmaxExtra + 17

/-- How far EW lies above NMAX. -/
opaque Config.ewExtra : Nat

/-- R6 `EW`, "width in bits of the exponent registers E and D"; "`EW >= NMAX`". OPEN (D5). -/
def Config.EW : Nat := Config.ewExtra + Config.NMAX

/-- How far RMAX lies above NMAX. -/
opaque Config.rmaxExtra : Nat

/-- R6 `RMAX`, "number of entries of the round-constant RAM RC, and the largest legal round count";
"`RMAX >= NMAX`". OPEN (D6). -/
def Config.RMAX : Nat := Config.rmaxExtra + Config.NMAX

/-- R6 `PW`, "width of the port data bus and of the WIDTH, ROUNDS, RRED, RCIDX and CMD registers",
"`PW = max(NMAX, EW)`" (D7), which is EW because EW >= NMAX (`Laws.PW_eq_max`). -/
def Config.PW : Nat := Config.EW

/-- The rest of the polynomial table. -/
opaque Config.irredExtra : Nat → Option Nat

/-- R7 `IRRED`, "partial map from width n in 1..NMAX to the reduction polynomial P_n". IRRED(5) = 0x25 and
IRRED(17) = 0x20009 are fixed; every other entry, and which widths are present, is OPEN (D3): whatever the
implementation's table holds that meets R7's constraint. -/
def Config.IRRED (n : Nat) : Option Nat :=
  if n = 5 then some 0x25
  else if n = 17 then some 0x20009
  else if 1 ≤ n ∧ n ≤ Config.NMAX then (Config.irredExtra n).filter (irreducible n)
  else none

/-- The operands on which a command's latency may depend: every register a command reads (R6). -/
structure Config.Operands where
  width : Nat
  a : Nat
  b : Nat
  k : Nat
  e : Nat
  d : Nat
  rounds : Nat
  rred : Nat
  rc : List (Nat × Nat)
  cfgv : Bool
  deriving DecidableEq, Repr

/-- How many cycles a command stays busy beyond the first. -/
opaque Config.latExtra : Nat → Config.Operands → Nat

/-- R6 `LAT`, "the number of clock cycles a command stays busy, as a function of the command word and its operands";
"every value finite and `>= 1`". OPEN (D17). -/
def Config.LAT (w : Nat) (ops : Config.Operands) : Nat := Config.latExtra w ops + 1

/-- FREE VALUE (R50, I4): what a host read of an RC entry that no host write has reached since reset returns,
"an unspecified NMAX-bit value". Its argument is the number of the read. -/
opaque Config.freeRcRead : Nat → Nat

end Sys2Proof
end

