-- ==== Sys2Proof/Syntax.lean ====
section
/-! DEFINITION. The instructions: one constructor for each row of the opcode table, and the two coded forms. -/

namespace Sys2Proof

/-- The rows of spec/opcode_table.json. A command has no operand in its word (R86). -/
inductive Instr where
  /-- NOP, R106. -/
  | nop
  /-- ADD, R122. -/
  | add
  /-- MUL, R123. -/
  | mul
  /-- POW, R125. -/
  | pow
  /-- POWN, R126. -/
  | pown
  /-- GCD, R142. -/
  | gcd
  /-- PERMCHK, R143. -/
  | permchk
  /-- DEXP, R146. -/
  | dexp
  /-- KADD, R160. -/
  | kadd
  /-- ROUND, R161. -/
  | round
  /-- IROUND, R162. -/
  | iround
  /-- CONFIG.GN: VAR = 0, AUTOR = 0 (R171). -/
  | configGn
  /-- CONFIG.MIMC: VAR = 1, AUTOR = 0. -/
  | configMimc
  /-- CONFIG.MIMC5: VAR = 2, AUTOR = 0. -/
  | configMimc5
  /-- CONFIG.GN.AUTO: VAR = 0, AUTOR = 1. -/
  | configGnAuto
  /-- CONFIG.MIMC.AUTO: VAR = 1, AUTOR = 1. -/
  | configMimcAuto
  /-- CONFIG.MIMC5.AUTO: VAR = 2, AUTOR = 1. -/
  | configMimc5Auto
  /-- ENC, R182. -/
  | enc
  /-- DEC, R183. -/
  | dec
  /-- ILLEGAL, R85: any PW-bit word that is not one of the legal words of R87. -/
  | illegal (w : Nat)
  /-- HOSTWR, R100: a host write of `data` to port address `addr`. -/
  | hostwr (addr : Addr) (data : Nat)
  /-- HOSTRD, R102: a host read of port address `addr`. -/
  | hostrd (addr : Addr)
  deriving DecidableEq, Repr

/-- The two formats of the opcode table: a command word written to CMD (R80), and a host transaction, a 6-bit
`wen`:address header with the data of a write (R88). -/
inductive Coded where
  | cmd (w : Nat)
  | port (header : BitVec 6) (data : Nat)
  deriving DecidableEq, Repr

/-- The two fields of a CONFIG word (R83, R84). -/
inductive Variant where
  /-- VAR = 0, MiMCGn: exponent from E. -/
  | gn
  /-- VAR = 1, MiMC: exponent 3, odd block size. -/
  | mimc
  /-- VAR = 2, MiMC5: exponent 5. -/
  | mimc5
  deriving DecidableEq, Repr

end Sys2Proof
end

