-- ==== Sys2Proof/WellFormed.lean ====
section
/-! DEFINITION. Which instruction terms stand for something the port can carry. -/

namespace Sys2Proof

/-- R87: "The legal command words, as exact values (bits PW-1 to 7 zero)". -/
def legalWords : List Nat :=
  [0x00, 0x01, 0x02, 0x03, 0x04, 0x05, 0x06, 0x07, 0x08, 0x09, 0x0A, 0x0C, 0x0D,
   0x0B, 0x1B, 0x2B, 0x4B, 0x5B, 0x6B]

/-- An ILLEGAL word is a PW-bit word outside R87's list; the data of a host write has PW bits (R63, R88). -/
def Instr.wf : Instr → Bool
  | .nop | .add | .mul | .pow | .pown | .gcd | .permchk | .dexp | .kadd | .round | .iround
  | .configGn | .configMimc | .configMimc5 | .configGnAuto | .configMimcAuto | .configMimc5Auto
  | .enc | .dec => true
  | .illegal w => fits Config.PW w && !legalWords.contains w
  | .hostwr _ data => fits Config.PW data
  | .hostrd _ => true

/-- A coded form that the wires can carry: a PW-bit word, a 6-bit header and PW-bit data; a read carries no data. -/
def Coded.wf : Coded → Bool
  | .cmd w => fits Config.PW w
  | .port header data => fits Config.PW data && (header.getLsbD 5 || data == 0)

end Sys2Proof
end

