-- ==== Sys2Proof/Decode.lean ====
section
/-! DEFINITION. The decoder of the two formats, total (R91), and the encoder after it. -/

namespace Sys2Proof

/-- Why a coded form is not decoded: it has bits above PW, so it is no word and no write data of the port. -/
inductive DecodeReject where
  | commandTooWide (w : Nat)
  | dataTooWide (data : Nat)
  deriving DecidableEq, Repr

/-- R81: bits 3:0 of a command word. -/
def cmdOp (w : Nat) : Nat := bitField w 0 4
/-- R81: bits 5:4. -/
def cmdVar (w : Nat) : Nat := bitField w 4 2
/-- R81: bit 6. -/
def cmdAutor (w : Nat) : Nat := bitField w 6 1
/-- R81: bits PW-1:7, which "must be 0". -/
def cmdRsv (w : Nat) : Nat := w / 2 ^ 7

/-- R82, the opcode map less CONFIG (0xB); 0xE and 0xF are reserved. -/
def decodeOp : Nat → Option Instr
  | 0x0 => some .nop
  | 0x1 => some .add
  | 0x2 => some .mul
  | 0x3 => some .pow
  | 0x4 => some .pown
  | 0x5 => some .gcd
  | 0x6 => some .permchk
  | 0x7 => some .dexp
  | 0x8 => some .kadd
  | 0x9 => some .round
  | 0xA => some .iround
  | 0xC => some .enc
  | 0xD => some .dec
  | _ => none

/-- R83 and R84: VAR and AUTOR of a CONFIG word; VAR = 3 is reserved. -/
def decodeConfig (var autor : Nat) : Option Instr :=
  match var, autor with
  | 0, 0 => some .configGn
  | 1, 0 => some .configMimc
  | 2, 0 => some .configMimc5
  | 0, 1 => some .configGnAuto
  | 1, 1 => some .configMimcAuto
  | 2, 1 => some .configMimc5Auto
  | _, _ => none

/-- R85: the command of a word, or ILLEGAL: "OP is 0xE or 0xF; RSV is not 0; OP is not CONFIG and VAR or AUTOR is not
0; OP is CONFIG and VAR = 3". -/
def decodeCmd (w : Nat) : Instr :=
  if cmdRsv w ≠ 0 then .illegal w
  else if cmdOp w = 0xB then (decodeConfig (cmdVar w) (cmdAutor w)).getD (.illegal w)
  else if cmdVar w ≠ 0 ∨ cmdAutor w ≠ 0 then .illegal w
  else (decodeOp (cmdOp w)).getD (.illegal w)

/-- R88: `1aaaaa` with data is a write, `0aaaaa` a read, which has no data field. -/
def decodePort (header : BitVec 6) (data : Nat) : Instr :=
  if header.getLsbD 5 then .hostwr (header.setWidth 5) data else .hostrd (header.setWidth 5)

/-- The decoder. It rejects by name what has bits above PW. -/
def decode : Coded → Except DecodeReject Instr
  | .cmd w => if fits Config.PW w then .ok (decodeCmd w) else .error (.commandTooWide w)
  | .port header data =>
    if fits Config.PW data then .ok (decodePort header data) else .error (.dataTooWide data)

/-- The coded form of an instruction: R87's words and R88's headers. -/
def encode : Instr → Coded
  | .nop => .cmd 0x00
  | .add => .cmd 0x01
  | .mul => .cmd 0x02
  | .pow => .cmd 0x03
  | .pown => .cmd 0x04
  | .gcd => .cmd 0x05
  | .permchk => .cmd 0x06
  | .dexp => .cmd 0x07
  | .kadd => .cmd 0x08
  | .round => .cmd 0x09
  | .iround => .cmd 0x0A
  | .configGn => .cmd 0x0B
  | .configMimc => .cmd 0x1B
  | .configMimc5 => .cmd 0x2B
  | .configGnAuto => .cmd 0x4B
  | .configMimcAuto => .cmd 0x5B
  | .configMimc5Auto => .cmd 0x6B
  | .enc => .cmd 0x0C
  | .dec => .cmd 0x0D
  | .illegal w => .cmd w
  | .hostwr addr data => .port (BitVec.append (1#1) addr) data
  | .hostrd addr => .port (BitVec.append (0#1) addr) 0

/-- An instruction's bits as the opcode table numbers them, as a coded form: a PORT row has a 6-bit header, one byte
(`nbits` at most 8), its data on from bit 6; a CMD row is the word written to CMD (log entry 16). -/
def codedOfTableWord (nbits w : Nat) : Coded :=
  if nbits ≤ 8 then .port (BitVec.ofNat 6 w) (w / 2 ^ 6) else .cmd w

/-- The instruction the decoder reads from the bits `w` of a row of the opcode table. -/
def decodeTableWord (nbits w : Nat) : Option Instr := (decode (codedOfTableWord nbits w)).toOption

end Sys2Proof
end

