-- ==== Sys2Proof/Machine/State.lean ====
section
/-! DEFINITION. The unit's state (R20), its reset (R49), and the ways a step can stop. -/

namespace Sys2Proof.Machine

/-- R201, the codes of STATUS.ERRCODE. Codes 9 to 15 are "never written" (R41). -/
inductive ErrCode where
  /-- 0, NONE: no error. -/
  | none
  /-- 1, ILLEGAL_CMD: the word is no legal command (R202). -/
  | illegalCmd
  /-- 2, UNSUPPORTED_WIDTH: n outside 1..NMAX, or IRRED(n) undefined (R203). -/
  | unsupportedWidth
  /-- 3, CFG_NOT_PERM: gcd(e, 2^n - 1) is not 1 (R175). -/
  | cfgNotPerm
  /-- 4, CFG_EVEN_WIDTH: MiMC variant with n even (R173). -/
  | cfgEvenWidth
  /-- 5, CFG_EXPONENT: effective exponent below 2 (R174). -/
  | cfgExponent
  /-- 6, CFG_ROUNDS: round count below 1 or above RMAX (R179). -/
  | cfgRounds
  /-- 7, NOT_CONFIGURED: ENC or DEC with CFGV = 0 (R205). -/
  | notConfigured
  /-- 8, NO_DEXP: no t in [1, e) (R206). -/
  | noDexp
  deriving DecidableEq, Repr

/-- R43 PEND: "the command word of the accepted command and the unit's progress through it". The progress is how many
more clock edges pass before the completion edge, counting it (log entry 10). -/
structure Pending where
  word : Nat
  cyclesLeft : Nat
  deriving DecidableEq, Repr

/-- What the host does through the port in one cycle (R63, R88). -/
inductive Txn where
  /-- wen = 0 and the host takes nothing from rdata. -/
  | quiet
  /-- wen = 0; the host takes rdata for `addr`. -/
  | read (addr : Addr)
  /-- wen = 1. -/
  | write (addr : Addr) (wdata : Nat)
  deriving DecidableEq, Repr

/-- The port's inputs at one rising edge of `clk` (R63). -/
structure PortIn where
  rst : Bool
  txn : Txn
  deriving DecidableEq, Repr

/-- R32 RC, entries 1 to RMAX-1: (index, value) pairs, index strictly rising. An index not listed has no value: no host
write has reached it since reset (R50). Entry 0 is hardwired and never listed (log entry 18). -/
abbrev Memory := List (Nat × Nat)

/-- R20. The widths of the registers are in R21; every one holds an unsigned integer (R9). -/
structure State where
  /-- WIDTH, PW bits (R22). -/
  width : Nat
  /-- A, NMAX bits (R23). -/
  a : Nat
  /-- B, NMAX bits (R24). -/
  b : Nat
  /-- K, NMAX bits (R25). -/
  k : Nat
  /-- R, NMAX bits (R26). -/
  r : Nat
  /-- E, EW bits (R27). -/
  e : Nat
  /-- D, EW bits (R28). -/
  d : Nat
  /-- ROUNDS, PW bits (R29). -/
  rounds : Nat
  /-- RRED, PW bits (R30). -/
  rred : Nat
  /-- RCIDX, PW bits (R31). -/
  rcidx : Nat
  /-- STATUS.DONE (R35). -/
  done : Bool
  /-- STATUS.ERR (R36). -/
  err : Bool
  /-- STATUS.OVR (R37). -/
  ovr : Bool
  /-- STATUS.ERRCODE (R38). -/
  errcode : ErrCode
  /-- STATUS.CFGV (R39). -/
  cfgv : Bool
  /-- STATUS.PERM (R40). -/
  perm : Bool
  /-- RC (R32). -/
  rc : Memory
  /-- PEND (R43), and STATUS.BUSY (R34): BUSY is 1 exactly while a command is pending (log entry 9). -/
  pend : Option Pending
  /-- MODEL'S OWN: what the host will drive at the coming edges, the next one first; when none is listed the port is
  quiet (log entry 5). -/
  port : List PortIn
  /-- MODEL'S OWN: the rdata of the host's last read (R65; log entry 6). -/
  rdata : Nat
  /-- MODEL'S OWN: how many reads the host has made, the argument of the free value (log entry 7). -/
  freeCount : Nat
  deriving DecidableEq, Repr

/-- Why a step stops with a fault. -/
inductive Fault where
  /-- Raised by ENC and DEC when they read RC entry `i`, which no host write has reached since reset: "A model must
  treat this as a fault of the model" (R186, R50). Safe: the chip goes on with whatever the RAM holds. -/
  | rcEntryUnwritten (i : Nat)
  deriving DecidableEq, Repr

/-- Why an instruction is refused. -/
inductive Refusal where
  /-- Raised by an arm of `exec` whose instruction has no meaning yet; no arm is one. Safe. -/
  | notModelled (mnemonic : String)
  deriving DecidableEq, Repr

/-- The outcome of a step of this machine. -/
abbrev Result := Host.Outcome State Fault Refusal

/-- R49, the value of every piece of state after reset. RC's entries 1 to RMAX-1 are unspecified: none is listed
(R50). `port`, `rdata` and `freeCount` are the model's own (log entries 5, 6, 7: DESIGN CHOICE). -/
def State.reset : State where
  width := 0
  a := 0
  b := 0
  k := 0
  r := 0
  e := 0
  d := 0
  rounds := 0
  rred := 0
  rcidx := 0
  done := false
  err := false
  ovr := false
  errcode := .none
  cfgv := false
  perm := false
  rc := []
  pend := none
  port := []
  rdata := 0
  freeCount := 0

end Sys2Proof.Machine
end

