-- ==== Sys2Proof/Machine/Flags.lean ====
section
/-! DEFINITION. STATUS: its layout (R33) and every way its fields are written. -/

namespace Sys2Proof.Machine

/-- R34 STATUS.BUSY: "a command has been accepted and has not completed". -/
def State.busy (s : State) : Bool := s.pend.isSome

/-- R201, the number of an error code. -/
def ErrCode.code : ErrCode → Nat
  | .none => 0
  | .illegalCmd => 1
  | .unsupportedWidth => 2
  | .cfgNotPerm => 3
  | .cfgEvenWidth => 4
  | .cfgExponent => 5
  | .cfgRounds => 6
  | .notConfigured => 7
  | .noDexp => 8

/-- R33 and R102, the STATUS word: PERM at bit 9, CFGV at 8, ERRCODE at 7:4, OVR at 3, ERR at 2, DONE at 1, BUSY at 0;
"Bits PW-1 to 10 of STATUS read as 0" (R41). -/
def State.statusWord (s : State) : Nat :=
  s.busy.toNat + 2 * s.done.toNat + 4 * s.err.toNat + 8 * s.ovr.toNat + 16 * s.errcode.code
    + 256 * s.cfgv.toNat + 512 * s.perm.toNat

/-- R107: at the completion edge BUSY <- 0 (nothing is pending any more) and DONE <- 1. -/
def State.finish (s : State) : State := { s with pend := none, done := true }

/-- R107 `raise Error(c)`: the command completes with ERR <- 1 and ERRCODE <- c, and writes nothing else (R211). -/
def State.finishError (c : ErrCode) (s : State) : State := { s.finish with err := true, errcode := c }

/-- R26: a command that writes R writes `zext_NMAX(v)` and completes. -/
def State.finishResult (v : Nat) (s : State) : State := { s.finish with r := v }

/-- R100: a write while busy is dropped and sets OVR. -/
def State.setOverrun (s : State) : State := { s with ovr := true }

/-- R72: a host write to the configuration clears CFGV. -/
def State.clearCfgv (s : State) : State := { s with cfgv := false }

/-- R105: acceptance clears DONE, ERR, OVR and ERRCODE, sets BUSY and holds the word, for `latency` cycles. CFGV and PERM
are unchanged. -/
def State.acceptCmd (w : Nat) (latency : Nat) (s : State) : State :=
  { s with done := false, err := false, ovr := false, errcode := .none, pend := some ⟨w, latency⟩ }

end Sys2Proof.Machine
end

