-- ==== Sys2Proof/Machine/Ops.lean ====
section
/-! DEFINITION. The named operations over RC and the registers, the port's accesses (R100 to R105), the reporting of an
error (R200), and reset (R230). -/

namespace Sys2Proof.Machine

/-- The value listed for entry `i`, if any. -/
def Memory.lookup : Memory → Nat → Option Nat
  | [], _ => none
  | (j, v) :: m, i => if i = j then some v else Memory.lookup m i

/-- The list with the value of entry `i` set, in rising order. -/
def Memory.insert : Memory → Nat → Nat → Memory
  | [], i, v => [(i, v)]
  | (j, u) :: m, i, v =>
    if i < j then (i, v) :: (j, u) :: m
    else if i = j then (i, v) :: m
    else (j, u) :: Memory.insert m i v

/-- Every index listed is above `low` and they rise strictly. -/
def Memory.rising : Nat → Memory → Bool
  | _, [] => true
  | low, (j, _) :: m => decide (low < j) && Memory.rising j m

/-- The canonical form of RC's list: indices 1 to RMAX-1, strictly rising, every value an NMAX-bit value. -/
def Memory.wf (m : Memory) : Bool :=
  Memory.rising 0 m && m.all fun c => decide (c.1 < Config.RMAX) && fits Config.NMAX c.2

/-- R12 `MemRead(i, 1)`: entry 0 "is hardwired to 0" (R32); an entry no host write has reached has no value (R50). -/
def Memory.read (m : Memory) (i : Nat) : Option Nat := if i = 0 then some 0 else m.lookup i

/-- `f` after a step's outcome. -/
def andThen (o : Result) (f : State → Result) : Result :=
  match o with
  | .next s => f s
  | .fault x => .fault x
  | .refused x => .refused x

/-- R12, R107, R200, R211: `raise Error(c)`. THE way an error is taken: not a trap (R200), no control transfer, no
saved state and no return (R213). The command completes and STATUS says so. -/
def raiseError (c : ErrCode) (s : State) : Result := .next (s.finishError c)

/-- R171 `fail(c)`: a CONFIG that fails clears CFGV (R211). -/
def configFail (c : ErrCode) (s : State) : Result := raiseError c s.clearCfgv

/-- The operands on which a command's latency may depend (R6). -/
def State.operands (s : State) : Config.Operands where
  width := s.width
  a := s.a
  b := s.b
  k := s.k
  e := s.e
  d := s.d
  rounds := s.rounds
  rred := s.rred
  rc := s.rc
  cfgv := s.cfgv

/-- R105 `Accept(w)`. -/
def accept (w : Nat) (s : State) : State := s.acceptCmd w (Config.LAT w s.operands)

/-- R103 `RcWrite(v)`: an index of 0 or at least RMAX is ignored and leaves CFGV alone; RCIDX does not change. -/
def rcWrite (v : Nat) (s : State) : State :=
  if 1 ≤ s.rcidx ∧ s.rcidx < Config.RMAX then
    { s.clearCfgv with rc := Memory.insert s.rc s.rcidx (trunc Config.NMAX v) }
  else s

/-- R104 `RcRead()`: 0 for an index of 0 or at least RMAX; for an entry never written since reset, the free value of
this read (R50; log entry 7). -/
def rcRead (s : State) : Nat :=
  if s.rcidx = 0 then 0
  else if s.rcidx < Config.RMAX then
    (Memory.read s.rc s.rcidx).getD (trunc Config.NMAX (Config.freeRcRead s.freeCount))
  else 0

/-- R100 and R101, a host write of PW-bit data while BUSY = 0. STATUS and R are read-only; 0x0D to 0x1F are reserved
(R62). -/
def hostWriteIdle (addr : Addr) (v : Nat) (s : State) : State :=
  match addr.toNat with
  | 0x00 => accept v s
  | 0x02 => { s.clearCfgv with width := v }
  | 0x03 => { s with a := trunc Config.NMAX v }
  | 0x04 => { s with b := trunc Config.NMAX v }
  | 0x05 => { s with k := trunc Config.NMAX v }
  | 0x07 => { s.clearCfgv with e := trunc Config.EW v }
  | 0x08 => { s.clearCfgv with d := trunc Config.EW v }
  | 0x09 => { s.clearCfgv with rounds := v }
  | 0x0A => { s with rred := v }
  | 0x0B => { s with rcidx := v }
  | 0x0C => rcWrite v s
  | _ => s

/-- R100 `HostWrite(a, v)`. The data bus has PW wires (R63), so `v` is its low PW bits (log entry 17). -/
def hostWrite (addr : Addr) (v : Nat) (s : State) : State :=
  if s.busy then s.setOverrun else hostWriteIdle addr (trunc Config.PW v) s

/-- R102 `HostRead(a)`: the value of `rdata` in every cycle in which the port address is `addr` (R65). -/
def hostRead (addr : Addr) (s : State) : Nat :=
  match addr.toNat with
  | 0x01 => s.statusWord
  | 0x02 => s.width
  | 0x03 => s.a
  | 0x04 => s.b
  | 0x05 => s.k
  | 0x06 => s.r
  | 0x07 => s.e
  | 0x08 => s.d
  | 0x09 => s.rounds
  | 0x0A => s.rred
  | 0x0B => s.rcidx
  | 0x0C => rcRead s
  | _ => 0

/-- R48, the output `busy`. -/
def State.busyOut (s : State) : Bool := s.busy
/-- R48, the output `done`. -/
def State.doneOut (s : State) : Bool := s.done
/-- R48, the output `err`. -/
def State.errOut (s : State) : Bool := s.err

/-- The host takes `rdata`: no state of the unit changes (R65), only the model's record of the read. -/
def takeRead (addr : Addr) (s : State) : State :=
  { s with rdata := hostRead addr s, freeCount := s.freeCount + 1 }

/-- R230: at an edge with rst = 1 "every piece of state takes its reset value of R49, whatever else happens at that
edge". The host's own coming inputs and its record of its reads are not the unit's state (log entry 12). -/
def resetEdge (s : State) : State :=
  { State.reset with port := s.port, rdata := s.rdata, freeCount := s.freeCount }

/-- R234: a clock edge of a pending command that is not its completion edge. -/
def countDown (q : Pending) (s : State) : State :=
  { s with pend := some { q with cyclesLeft := q.cyclesLeft - 1 } }

/-- The port transaction of a cycle as an instruction. -/
def Txn.instr : Txn → Option Instr
  | .quiet => none
  | .read addr => some (.hostrd addr)
  | .write addr wdata => some (.hostwr addr wdata)

/-- The host's expansion of `LDRC i, v` (R90): `WR RCIDX, i` then `WR RCDATA, v`, as port inputs. -/
def ldrc (i : Nat) (v : Nat) : List PortIn :=
  [⟨false, .write 0x0B#5 i⟩, ⟨false, .write 0x0C#5 v⟩]

end Sys2Proof.Machine
end

