-- ==== Sys2Proof/Machine/Operands.lean ====
section
/-! DEFINITION. How a command reads its operands, and the checks that come before its effect. -/

namespace Sys2Proof.Machine

/-- R12 `fe(v)`: "`trunc_n(v)`, the operand as an element of the current field". -/
def fe (n : Nat) (v : Nat) : Nat := trunc n v

/-- R107 step 2: `n < 1 or n > NMAX` is not in range. -/
def widthInRange (n : Nat) : Bool := decide (1 ≤ n) && decide (n ≤ Config.NMAX)

/-- R107 step 2 for every command but NOP and CONFIG, then the command's rule with n = x[WIDTH]. -/
def withWidth (s : State) (rule : Nat → Result) : Result :=
  if widthInRange s.width then rule s.width else raiseError .unsupportedWidth s

/-- R121 table check: "if IRRED(n) is undefined: raise Error(UNSUPPORTED_WIDTH)", then the rule with P. -/
def withTable (n : Nat) (s : State) (rule : Nat → Result) : Result :=
  match Config.IRRED n with
  | none => raiseError .unsupportedWidth s
  | some p => rule p

/-- A command whose result needs the table: n in range, P defined, then R <- v. -/
def fieldCommand (s : State) (value : Nat → Nat → Nat) : Result :=
  withWidth s fun n => withTable n s fun p => .next (s.finishResult (value n p))

/-- A command whose result needs no table. -/
def plainCommand (s : State) (value : Nat → Nat) : Result :=
  withWidth s fun n => .next (s.finishResult (value n))

end Sys2Proof.Machine
end

