-- ==== Sys2Proof/Machine/MimcRound.lean ====
section
/-! DEFINITION. KADD, ROUND, IROUND (43_mimc_round.md). -/

namespace Sys2Proof.Machine

/-- The power map of one round: (s XOR k XOR c)^x, computed "as by POW" (R161). -/
def roundPower (n p : Nat) (st k c : Nat) (x : Nat) : Nat := powSquare n p (st ^^^ k ^^^ c) x

/-- KADD, R160: no table check. -/
def execKadd (s : State) : Result := plainCommand s fun n => fe n s.a ^^^ fe n s.k

/-- ROUND, R161: the constant from B, the exponent e = x[E] whole. It needs no CFGV. -/
def execRound (s : State) : Result :=
  fieldCommand s fun n p => roundPower n p (fe n s.a) (fe n s.k) (fe n s.b) s.e

/-- IROUND, R162: as ROUND with d = x[D]. -/
def execIround (s : State) : Result :=
  fieldCommand s fun n p => roundPower n p (fe n s.a) (fe n s.k) (fe n s.b) s.d

end Sys2Proof.Machine
end

