-- ==== Sys2Proof/Machine/Cipher.lean ====
section
/-! DEFINITION. CONFIG in its six words, ENC and DEC (44_cipher_sequencer.md). -/

namespace Sys2Proof.Machine

/-- R172, the effective exponent of a variant. -/
def effectiveExponent (v : Variant) (s : State) : Nat :=
  match v with
  | .gn => s.e
  | .mimc => 3
  | .mimc5 => 5

/-- R177 and R178, the round count, an integer that may be negative (R9): with AUTOR = 1 the derived count, less RRED
for MiMCGn alone; with AUTOR = 0 the value of ROUNDS. -/
def roundCount (v : Variant) (auto : Bool) (e n : Nat) (s : State) : Int :=
  if auto then (deriveRounds e n : Int) - (if v = .gn then (s.rred : Int) else 0) else (s.rounds : Int)

/-- R181, the commit of a CONFIG that passes every check. -/
def configCommit (e rounds d : Nat) (s : State) : State :=
  { s.finish with e := e, rounds := rounds, d := d, cfgv := true }

/-- CONFIG, R171, with R107's width check first (a failed CONFIG clears CFGV there too). The checks come in the order
of R210. `dexp` is always defined after them (R180): its `none` is not reached (log entry 14). -/
def configure (v : Variant) (auto : Bool) (s : State) : Result :=
  let n := s.width
  let e := effectiveExponent v s
  let rounds := roundCount v auto e n s
  if !widthInRange n then configFail .unsupportedWidth s
  else if v = .mimc ∧ n % 2 = 0 then configFail .cfgEvenWidth s
  else if e < 2 then configFail .cfgExponent s
  else if euclid e (groupOrder n) ≠ 1 then configFail .cfgNotPerm s
  else if rounds < 1 ∨ Config.RMAX < rounds.toNat then configFail .cfgRounds s
  else
    match dexp e n with
    | none => configFail .noDexp s
    | some d => .next (configCommit e rounds.toNat d s)

/-- CONFIG.GN, word 0x0B. -/
def execConfigGn (s : State) : Result := configure .gn false s
/-- CONFIG.MIMC, word 0x1B. -/
def execConfigMimc (s : State) : Result := configure .mimc false s
/-- CONFIG.MIMC5, word 0x2B. -/
def execConfigMimc5 (s : State) : Result := configure .mimc5 false s
/-- CONFIG.GN.AUTO, word 0x4B. -/
def execConfigGnAuto (s : State) : Result := configure .gn true s
/-- CONFIG.MIMC.AUTO, word 0x5B. -/
def execConfigMimcAuto (s : State) : Result := configure .mimc true s
/-- CONFIG.MIMC5.AUTO, word 0x6B. -/
def execConfigMimc5Auto (s : State) : Result := configure .mimc5 true s

/-- R182, the order in which ENC reads RC: 0, 1, ..., r - 1. -/
def encOrder (r : Nat) : List Nat := List.range r

/-- R183, the order in which DEC reads RC: 0, r - 1, r - 2, ..., 1. -/
def decOrder (r : Nat) : List Nat := (List.range r).map fun j => if j = 0 then 0 else r - j

/-- The rounds of ENC and DEC over the entries of RC in the given order, each with the exponent `x`; an entry that no
host write has reached since reset ends the run with its index (R186). -/
def runRounds (n p : Nat) (rc : Memory) (k : Nat) (x : Nat) : List Nat → Nat → Except Nat Nat
  | [], st => .ok st
  | i :: order, st =>
    match Memory.read rc i with
    | none => .error i
    | some c => runRounds n p rc k x order (roundPower n p st k (fe n c) x)

/-- The rounds of ENC and DEC with P known, then the final key addition: R <- s XOR k; or the model's fault. -/
def cipherResult (order : List Nat) (x : Nat) (s : State) (n p : Nat) : Result :=
  match runRounds n p s.rc (fe n s.k) x order (fe n s.a) with
  | .error i => .fault (.rcEntryUnwritten i)
  | .ok st => .next (s.finishResult (st ^^^ fe n s.k))

/-- The preconditions of R184 in their order: CFGV, then the table. -/
def cipherRule (order : List Nat) (x : Nat) (s : State) (n : Nat) : Result :=
  if s.cfgv then withTable n s (cipherResult order x s n) else raiseError .notConfigured s

/-- ENC and DEC, with R107's width check first. -/
def cipherCommand (order : List Nat) (x : Nat) (s : State) : Result := withWidth s (cipherRule order x s)

/-- ENC, R182: exponent e = x[E]. -/
def execEnc (s : State) : Result := cipherCommand (encOrder s.rounds) s.e s

/-- DEC, R183: exponent d = x[D]. -/
def execDec (s : State) : Result := cipherCommand (decOrder s.rounds) s.d s

end Sys2Proof.Machine
end

