-- ==== Sys2Proof/Machine/FieldArith.lean ====
section
/-! DEFINITION. ADD, MUL, POW, POWN (41_field_arithmetic.md). -/

namespace Sys2Proof.Machine

/-- ADD, R122: `x[R] <- zext_NMAX(a XOR b)`, no table check. -/
def execAdd (s : State) : Result := plainCommand s fun n => fe n s.a ^^^ fe n s.b

/-- MUL, R123. -/
def execMul (s : State) : Result := fieldCommand s fun n p => gfMul n p (fe n s.a) (fe n s.b)

/-- POW, R125: square-and-multiply, e = x[E] whole. -/
def execPow (s : State) : Result := fieldCommand s fun n p => powSquare n p (fe n s.a) s.e

/-- POWN, R126: naive repeated multiplication. -/
def execPown (s : State) : Result := fieldCommand s fun n p => powNaive n p (fe n s.a) s.e

end Sys2Proof.Machine
end

