-- ==== Sys2Proof/Machine/HostAccess.lean ====
section
/-! DEFINITION. HOSTWR, HOSTRD, NOP and the illegal words (40_host_access.md). -/

namespace Sys2Proof.Machine

/-- HOSTWR, R100. -/
def execHostwr (addr : Addr) (data : Nat) (s : State) : Result := .next (hostWrite addr data s)

/-- HOSTRD, R102. -/
def execHostrd (addr : Addr) (s : State) : Result := .next (takeRead addr s)

/-- NOP, R106: `done`. It does not check WIDTH. -/
def execNop (s : State) : Result := .next s.finish

/-- An illegal word, R85 and R202: it completes with ILLEGAL_CMD and changes neither CFGV nor PERM. -/
def execIllegal (_w : Nat) (s : State) : Result := raiseError .illegalCmd s

end Sys2Proof.Machine
end

