-- ==== Sys2Proof/Machine/NumberTheory.lean ====
section
/-! DEFINITION. GCD, PERMCHK, DEXP (42_number_theory.md). -/

namespace Sys2Proof.Machine

/-- GCD, R142: the operands are fe(A) and fe(B) as unsigned integers. -/
def execGcd (s : State) : Result := plainCommand s fun n => euclid (fe n s.a) (fe n s.b)

/-- PERMCHK, R143: R <- g and PERM <- (g = 1), with g = gcd(e, M_n). A verdict of 0 is no error (R209). -/
def execPermchk (s : State) : Result :=
  withWidth s fun n =>
    let g := euclid s.e (groupOrder n)
    .next { s.finishResult g with perm := decide (g = 1) }

/-- DEXP, R146: D <- dexp(e, n), or NO_DEXP with D unchanged. -/
def execDexp (s : State) : Result :=
  withWidth s fun n =>
    match dexp s.e n with
    | none => raiseError .noDexp s
    | some v => .next { s.finish with d := v }

end Sys2Proof.Machine
end

