-- ==== Sys2Proof/Machine/Dispatch.lean ====
section
/-! DEFINITION. The meaning of each instruction: of a command, its completion (R107); of a host transaction, R100, R102. -/

namespace Sys2Proof.Machine

def exec (i : Instr) (s : State) : Host.Outcome State Fault Refusal :=
  match i with
  | .nop => Sys2Proof.Machine.execNop s
  | .add => Sys2Proof.Machine.execAdd s
  | .mul => Sys2Proof.Machine.execMul s
  | .pow => Sys2Proof.Machine.execPow s
  | .pown => Sys2Proof.Machine.execPown s
  | .gcd => Sys2Proof.Machine.execGcd s
  | .permchk => Sys2Proof.Machine.execPermchk s
  | .dexp => Sys2Proof.Machine.execDexp s
  | .kadd => Sys2Proof.Machine.execKadd s
  | .round => Sys2Proof.Machine.execRound s
  | .iround => Sys2Proof.Machine.execIround s
  | .configGn => Sys2Proof.Machine.execConfigGn s
  | .configMimc => Sys2Proof.Machine.execConfigMimc s
  | .configMimc5 => Sys2Proof.Machine.execConfigMimc5 s
  | .configGnAuto => Sys2Proof.Machine.execConfigGnAuto s
  | .configMimcAuto => Sys2Proof.Machine.execConfigMimcAuto s
  | .configMimc5Auto => Sys2Proof.Machine.execConfigMimc5Auto s
  | .enc => Sys2Proof.Machine.execEnc s
  | .dec => Sys2Proof.Machine.execDec s
  | .illegal w => Sys2Proof.Machine.execIllegal w s
  | .hostwr addr data => Sys2Proof.Machine.execHostwr addr data s
  | .hostrd addr => Sys2Proof.Machine.execHostrd addr s

end Sys2Proof.Machine
end

