-- ==== Sys2Proof/Machine/Edge.lean ====
section
/-! DEFINITION. One rising edge of `clk`: the port's transaction and the pending command, both "evaluated against the
state before the edge" (R64, R238). -/

namespace Sys2Proof.Machine

/-- R234: what a command that was pending before the edge (`before`) does at it. At its completion edge it runs
`Complete(w)`; at an earlier edge it comes one cycle nearer. -/
def pendingEdge (before : Option Pending) (s : State) : Result :=
  match before with
  | none => .next s
  | some q => if q.cyclesLeft ≤ 1 then exec (decodeCmd q.word) s else .next (countDown q s)

/-- The port's transaction of the cycle, if there is one. -/
def txnEdge (t : Txn) (s : State) : Result :=
  match t.instr with
  | none => .next s
  | some i => exec i s

/-- R230: at a reset edge a host write is ignored; a read of the cycle before the edge is still taken (R65). -/
def resetTxn (t : Txn) (s : State) : State :=
  match t with
  | .read addr => resetEdge (takeRead addr s)
  | .quiet | .write _ _ => resetEdge s

/-- One edge with the port inputs `p` of the cycle before it. A write sees BUSY as it was before the edge, so on a
completion edge it is dropped (R238); a command accepted at this edge completes at a later one. -/
def edge (p : PortIn) (s : State) : Result :=
  if p.rst then .next (resetTxn p.txn s)
  else andThen (txnEdge p.txn s) (pendingEdge s.pend)

/-- The next edge: its inputs are the head of `port`, quiet when none is listed. -/
def clockEdge (s : State) : Result :=
  match s.port with
  | [] => edge ⟨false, .quiet⟩ s
  | p :: rest => edge p { s with port := rest }

/-- Where a coded form is put so that the next edge runs it: a command word becomes the pending command, at its
completion edge, with a quiet port; a host transaction becomes the port's next input (log entry 15). -/
def State.place (s : State) : Coded → State
  | .cmd w => { s with pend := some ⟨trunc Config.PW w, 1⟩, port := ⟨false, .quiet⟩ :: s.port }
  | .port header data =>
    { s with port :=
        ⟨false, if header.getLsbD 5 then .write (header.setWidth 5) data else .read (header.setWidth 5)⟩ :: s.port }

end Sys2Proof.Machine
end

