-- ==== Sys2Proof/Machine/Step.lean ====
section
/-! DEFINITION. The step: one rising edge of `clk` (R63). -/

namespace Sys2Proof.Machine

/-- One step: next, fault or refusal. -/
def step (s : State) : Host.Outcome State Fault Refusal := clockEdge s

/-- `s` with the instruction of table bits `w` placed where the next step runs it. -/
def State.withFetchWord (s : State) (nbits w : Nat) : State := s.place (codedOfTableWord nbits w)

end Sys2Proof.Machine
end

