-- ==== Sys2Proof/Safety.lean ====
section
/-! DEFINITION. The invariant of the unit, what the spec says of a run's end, and the classes of instructions that
statements name. -/

namespace Sys2Proof

/-- A command word's instruction: every row but the two host transactions. -/
def Instr.isCommand : Instr → Bool
  | .hostwr _ _ | .hostrd _ => false
  | .nop | .add | .mul | .pow | .pown | .gcd | .permchk | .dexp | .kadd | .round | .iround
  | .configGn | .configMimc | .configMimc5 | .configGnAuto | .configMimcAuto | .configMimc5Auto
  | .enc | .dec | .illegal _ => true

/-- CONFIG in its six words. -/
def Instr.isConfig : Instr → Bool
  | .configGn | .configMimc | .configMimc5 | .configGnAuto | .configMimcAuto | .configMimc5Auto => true
  | .nop | .add | .mul | .pow | .pown | .gcd | .permchk | .dexp | .kadd | .round | .iround
  | .enc | .dec | .illegal _ | .hostwr _ _ | .hostrd _ => false

/-- R21, "written by commands": the commands that write R. -/
def Instr.writesR : Instr → Bool
  | .add | .mul | .pow | .pown | .gcd | .permchk | .kadd | .round | .iround | .enc | .dec => true
  | .nop | .dexp | .configGn | .configMimc | .configMimc5 | .configGnAuto | .configMimcAuto
  | .configMimc5Auto | .illegal _ | .hostwr _ _ | .hostrd _ => false

/-- The CONFIG instruction of VAR and AUTOR (R83, R84). -/
def configInstr : Variant → Bool → Instr
  | .gn, false => .configGn
  | .mimc, false => .configMimc
  | .mimc5, false => .configMimc5
  | .gn, true => .configGnAuto
  | .mimc, true => .configMimcAuto
  | .mimc5, true => .configMimc5Auto

namespace Machine

/-- Every register and every value the model keeps of the port fits its width (R21, R63). -/
structure State.WidthsOk (s : State) : Prop where
  width : s.width < 2 ^ Config.PW
  a : s.a < 2 ^ Config.NMAX
  b : s.b < 2 ^ Config.NMAX
  k : s.k < 2 ^ Config.NMAX
  r : s.r < 2 ^ Config.NMAX
  e : s.e < 2 ^ Config.EW
  d : s.d < 2 ^ Config.EW
  rounds : s.rounds < 2 ^ Config.PW
  rred : s.rred < 2 ^ Config.PW
  rcidx : s.rcidx < 2 ^ Config.PW
  rdata : s.rdata < 2 ^ Config.PW

/-- R39: what holds while CFGV = 1. -/
structure State.ConfigHeld (s : State) : Prop where
  width_pos : 1 ≤ s.width
  width_le : s.width ≤ Config.NMAX
  exponent : 2 ≤ s.e
  permutation : Nat.gcd s.e (2 ^ s.width - 1) = 1
  inverse : dexp s.e s.width = some s.d
  rounds_pos : 1 ≤ s.rounds
  rounds_le : s.rounds ≤ Config.RMAX

/-- The status bits agree with each other: ERRCODE is 0 exactly when ERR = 0 (R36, R38); ERR is a completed command's
(R36); while BUSY = 1, DONE = 0 and ERR = 0 (R35, R105). -/
structure State.StatusOk (s : State) : Prop where
  code : s.err = true ↔ s.errcode ≠ .none
  errDone : s.err = true → s.done = true
  busy : s.pend.isSome = true → s.done = false

/-- A pending command is a PW-bit word (R42, R80) with a completion edge still to come (R234). -/
def State.PendingOk (s : State) : Prop :=
  ∀ q, s.pend = some q → q.word < 2 ^ Config.PW ∧ 1 ≤ q.cyclesLeft

/-- The invariant of the unit: every step keeps it, and the reset state has it. -/
structure State.Inv (s : State) : Prop where
  widths : s.WidthsOk
  memory : Memory.wf s.rc = true
  pending : s.PendingOk
  status : s.StatusOk
  config : s.cfgv = true → s.ConfigHeld

/-- The host has loaded every constant that ENC and DEC will read (R77, R186). In a state of the invariant no ENC and no
DEC then ends in a fault. -/
def State.ConstantsLoaded (s : State) : Prop :=
  ∀ i, 1 ≤ i → i < s.rounds → (Memory.read s.rc i).isSome = true

/-- R239: "A run of a host program on the unit ends when the host program has issued its last transaction and a read of
STATUS returns BUSY = 0." No input is left and such a read would return BUSY = 0 (log entry 21). -/
def State.runEnded (s : State) : Bool := s.port.isEmpty && !s.busy

/-- R239: "The observable result of the run is the value of every register a host read returns at that point, and
STATUS": a host read of each of the 32 addresses. DESIGN CHOICE (log entry 21): RC is seen through RCDATA alone, so of its
entries only the one that RCIDX selects is in the result. Whether the other written entries belong to it R239 leaves
open. -/
def State.observe (s : State) : List Nat := (List.range 32).map fun a => hostRead (BitVec.ofNat 5 a) s

end Machine

end Sys2Proof
end

