-- ==== Sys2Proof/Certificates/Slice0/Obligations.lean ====
section
/-! DEFINITION. The statements for the provers. A result statement gives the whole next state, so it is the frame too:
every field it does not name is unchanged, RC and so every entry of it included. -/

open Sys2Proof Sys2Proof.Machine

/-! ## Parameters, notation, field and integer primitives (00_scope.md, 41, 42, 44) -/

/-- 00_scope.md R6, the constraints on the parameters, and the two entries of IRRED that the spec recovers from the source's
vectors (R7, "[derived: from the vectors of §8 and rule R123]"). -/
def Obligations.ParametersMeetConstraints : Prop :=
  Config.IRRED 5 = some 0x25 ∧ Config.IRRED 17 = some 0x20009 ∧
  17 ≤ Config.NMAX ∧ Config.NMAX ≤ Config.EW ∧ Config.NMAX ≤ Config.RMAX ∧
  Config.PW = max Config.NMAX Config.EW ∧ ∀ w ops, 1 ≤ Config.LAT w ops

/-- R7: every entry of the table has bit n set and the bits above clear, and is no product of two polynomials of positive
degree. -/
def Obligations.PolynomialTableIsIrreducible : Prop :=
  ∀ n p, Config.IRRED n = some p →
    1 ≤ n ∧ n ≤ Config.NMAX ∧ p.testBit n = true ∧ (∀ i, n < i → p.testBit i = false) ∧
    ∀ f g, 2 ≤ f → 2 ≤ g → clmul f g ≠ p

/-- R11: the codec between bit sequences, most significant bit first, and integers. -/
def Obligations.CodecRoundTrips : Prop :=
  (∀ v w, toDecimal (toBinary v w) = v % 2 ^ w ∧ (toBinary v w).length = w) ∧
  (∀ bits, toBinary (toDecimal bits) bits.length = bits) ∧
  (∀ (bits : List Bool) (j : Nat) (h : j < bits.length),
    (toDecimal bits).testBit (bits.length - 1 - j) = bits[j]) ∧
  toDecimal [true, true, false, true, false, true] = 53

/-- R13: `polymod(c, P)` is the remainder of c divided by P: below the degree of P, and c less a multiple of P. -/
def Obligations.PolymodIsTheRemainder : Prop :=
  ∀ c p, 1 ≤ p → polymod c p < 2 ^ p.log2 ∧ ∃ q, c = clmul q p ^^^ polymod c p

/-- 42_number_theory.md R141: the Euclidean loop's equation and its corner values, which the spec marks as general knowledge
and not in the source (93_implementation_defined.md G5); and that the loop's value is the greatest common divisor, which
the rule implies by the algorithm's name and no sentence of it says. -/
def Obligations.EuclidComputesGcd : Prop :=
  (∀ p q, q ≠ 0 → euclid p q = euclid q (p % q)) ∧ (∀ p, euclid p 0 = p) ∧ (∀ q, euclid 0 q = q) ∧
  ∀ p q, euclid p q = Nat.gcd p q

/-- 42_number_theory.md R145: dexp is the value of the smallest t in [1, e) with (1 + t*M_n) mod e = 0, none when there is none. -/
def Obligations.DexpFindsTheSmallest : Prop :=
  ∀ e n,
    (∀ d, dexp e n = some d ↔ ∃ t, 1 ≤ t ∧ t < e ∧ (1 + t * (2 ^ n - 1)) % e = 0 ∧
      (∀ u, 1 ≤ u → u < t → (1 + u * (2 ^ n - 1)) % e ≠ 0) ∧ d = (1 + t * (2 ^ n - 1)) / e) ∧
    (dexp e n = none ↔ ∀ t, 1 ≤ t → t < e → (1 + t * (2 ^ n - 1)) % e ≠ 0)

/-- 42_number_theory.md R145 and R148, the spec's inferences ("[derived: ...]"): dexp is defined exactly when e >= 2 and
gcd(e, M_n) = 1, and then lies in 1..M_n. -/
def Obligations.DexpDefinedAndBounded : Prop :=
  ∀ e n, 1 ≤ n →
    ((∃ d, dexp e n = some d) ↔ 2 ≤ e ∧ Nat.gcd e (2 ^ n - 1) = 1) ∧
    ∀ d, dexp e n = some d → 1 ≤ d ∧ d ≤ 2 ^ n - 1

/-- R176: r0(e, n) is the smallest r >= 1 with e^r >= 2^n, and r0(2, n) = n. -/
def Obligations.DerivedRoundCountIsSmallest : Prop :=
  ∀ e n, 2 ≤ e → 1 ≤ n →
    1 ≤ deriveRounds e n ∧ 2 ^ n ≤ e ^ deriveRounds e n ∧
    (∀ r, 1 ≤ r → r < deriveRounds e n → e ^ r < 2 ^ n) ∧ deriveRounds 2 n = n ∧ (2 ^ n ≤ e → deriveRounds e n = 1)

/-- 41_field_arithmetic.md R129 and 93_implementation_defined.md G1: the ring laws of gf_mul_n, for every P with bit n
the highest set. G1 is general knowledge by the spec's own word. -/
def Obligations.FieldMultiplicationRingLaws : Prop :=
  ∀ n p a b c, 1 ≤ n → 2 ^ n ≤ p → p < 2 ^ (n + 1) → a < 2 ^ n → b < 2 ^ n → c < 2 ^ n →
    gfMul n p a b < 2 ^ n ∧ gfMul n p a b = gfMul n p b a ∧
    gfMul n p (gfMul n p a b) c = gfMul n p a (gfMul n p b c) ∧
    gfMul n p a (b ^^^ c) = gfMul n p a b ^^^ gfMul n p a c ∧ gfMul n p a 1 = a

/-- 41_field_arithmetic.md R129: field closure at every width of the table, and what follows from it for exponents. -/
def Obligations.FieldClosure : Prop :=
  ∀ n p a, Config.IRRED n = some p → a < 2 ^ n →
    gfPow n p a (2 ^ n) = a ∧ (a ≠ 0 → gfPow n p a (2 ^ n - 1) = 1) ∧
    (a ≠ 0 → ∀ e, gfPow n p a e = gfPow n p a (e % (2 ^ n - 1))) ∧
    (∀ e, 1 ≤ e → gfPow n p 0 e = 0)

/-- 42_number_theory.md R147, the spec's inference: the decryption exponent inverts the power map. -/
def Obligations.DecryptionExponentInverts : Prop :=
  ∀ n p e d x, Config.IRRED n = some p → dexp e n = some d → x < 2 ^ n →
    gfPow n p (gfPow n p x e) d = x

/-! ## Encoding (30_encoding.md) -/

/-- Words written out from the encodings of R81 to R88 decode to what they stand for. -/
def Obligations.WordsDecodeAsWritten : Prop :=
  decode (.cmd 0b0000000) = .ok .nop ∧ decode (.cmd 0b0000010) = .ok .mul ∧
  decode (.cmd 0b0000111) = .ok .dexp ∧ decode (.cmd 0b0001001) = .ok .round ∧
  decode (.cmd 0b0011011) = .ok .configMimc ∧ decode (.cmd 0b1101011) = .ok .configMimc5Auto ∧
  decode (.cmd 0b0001100) = .ok .enc ∧ decode (.cmd 0b0111011) = .ok (.illegal 0x3B) ∧
  decode (.port 0b100111#6 0x1E) = .ok (.hostwr 0x07#5 0x1E) ∧ decode (.port 0b000110#6 0) = .ok (.hostrd 0x06#5)

/-- R85: which words are ILLEGAL_CMD, and what such a word does. -/
def Obligations.IllegalWordsCompleteWithError : Prop :=
  (∀ w, decodeCmd w = .illegal w ↔
    (w % 16 = 0xE ∨ w % 16 = 0xF ∨ w / 128 ≠ 0 ∨
      (w % 16 ≠ 0xB ∧ (w / 16 % 4 ≠ 0 ∨ w / 64 % 2 ≠ 0)) ∨ (w % 16 = 0xB ∧ w / 16 % 4 = 3))) ∧
  ∀ w s, exec (.illegal w) s =
    .next { s with pend := none, done := true, err := true, errcode := .illegalCmd }

/-- 30_encoding.md R87, the spec's inference: the legal words are these nineteen, every other word is ILLEGAL_CMD. -/
def Obligations.LegalWordsAreNineteen : Prop :=
  ∀ w, decodeCmd w ≠ .illegal w ↔
    w ∈ [0x00, 0x01, 0x02, 0x03, 0x04, 0x05, 0x06, 0x07, 0x08, 0x09, 0x0A, 0x0C, 0x0D,
      0x0B, 0x1B, 0x2B, 0x4B, 0x5B, 0x6B]

/-- Decoding the coded form of any well-formed instruction gives it back. -/
def Obligations.DecodeOfEncode : Prop := ∀ i : Instr, i.wf = true → decode (encode i) = .ok i

/-- 30_encoding.md R91: decoding is total on what the wires can carry, and encoding gives the same bits back. -/
def Obligations.EncodeOfDecode : Prop :=
  ∀ c : Coded, c.wf = true → ∃ i, decode c = .ok i ∧ i.wf = true ∧ encode i = c

/-! ## Host access (20_memory.md, 40_host_access.md) -/

/-- R235: every host write while BUSY = 1, to whatever address, is dropped and sets OVR. -/
def Obligations.WriteWhileBusyIsDropped : Prop :=
  ∀ a v s, s.pend.isSome = true → exec (.hostwr a v) s = .next { s with ovr := true }

/-- R105: a write to CMD while BUSY = 0 accepts the word, whatever it is; BUSY falls LAT cycles later (R234). -/
def Obligations.WriteToCmdAccepts : Prop :=
  ∀ w s, s.pend = none → w < 2 ^ Config.PW →
    exec (.hostwr 0x00#5 w) s =
      .next { s with done := false, err := false, ovr := false, errcode := .none,
                     pend := some ⟨w, Config.LAT w s.operands⟩ }

/-- R101: the effect of a host write to each ordinary register while BUSY = 0. -/
def Obligations.WriteToRegisters : Prop :=
  ∀ v s, s.pend = none → v < 2 ^ Config.PW →
    exec (.hostwr 0x02#5 v) s = .next { s with width := v, cfgv := false } ∧
    exec (.hostwr 0x03#5 v) s = .next { s with a := v % 2 ^ Config.NMAX } ∧
    exec (.hostwr 0x04#5 v) s = .next { s with b := v % 2 ^ Config.NMAX } ∧
    exec (.hostwr 0x05#5 v) s = .next { s with k := v % 2 ^ Config.NMAX } ∧
    exec (.hostwr 0x07#5 v) s = .next { s with e := v % 2 ^ Config.EW, cfgv := false } ∧
    exec (.hostwr 0x08#5 v) s = .next { s with d := v % 2 ^ Config.EW, cfgv := false } ∧
    exec (.hostwr 0x09#5 v) s = .next { s with rounds := v, cfgv := false } ∧
    exec (.hostwr 0x0A#5 v) s = .next { s with rred := v } ∧
    exec (.hostwr 0x0B#5 v) s = .next { s with rcidx := v }

/-- R62 for the reserved addresses; and writes to the read-only registers STATUS and R are ignored (R100). -/
def Obligations.ReservedAndReadOnlyAddresses : Prop :=
  (∀ a v s, s.pend = none → (13 ≤ a.toNat ∨ a = 0x01#5 ∨ a = 0x06#5) → exec (.hostwr a v) s = .next s) ∧
  (∀ a v s, s.pend.isSome = true → 13 ≤ a.toNat → exec (.hostwr a v) s = .next { s with ovr := true }) ∧
  (∀ (a : Addr) s, 13 ≤ a.toNat →
    exec (.hostrd a) s = .next { s with rdata := 0, freeCount := s.freeCount + 1 })

/-- R103: a write through RCDATA while BUSY = 0, seen through the read of every entry of RC. -/
def Obligations.WriteThroughRcdata : Prop :=
  ∀ v s, s.pend = none → v < 2 ^ Config.PW →
    (1 ≤ s.rcidx → s.rcidx < Config.RMAX →
      ∃ m, exec (.hostwr 0x0C#5 v) s = .next { s with rc := m, cfgv := false } ∧
        Memory.read m s.rcidx = some (v % 2 ^ Config.NMAX) ∧
        ∀ j, j ≠ s.rcidx → Memory.read m j = Memory.read s.rc j) ∧
    (s.rcidx = 0 ∨ Config.RMAX ≤ s.rcidx → exec (.hostwr 0x0C#5 v) s = .next s)

/-- R102 and R104: what a host read returns at each address, and that nothing else changes but the model's own count of
reads. An entry never written returns some NMAX-bit value (log entry 7). -/
def Obligations.HostReadReturns : Prop :=
  ∀ (a : Addr) s, ∃ v, exec (.hostrd a) s = .next { s with rdata := v, freeCount := s.freeCount + 1 } ∧
    (a = 0x00#5 → v = 0) ∧
    (a = 0x01#5 → v = s.pend.isSome.toNat + 2 * s.done.toNat + 4 * s.err.toNat + 8 * s.ovr.toNat +
      16 * s.errcode.code + 256 * s.cfgv.toNat + 512 * s.perm.toNat) ∧
    (a = 0x02#5 → v = s.width) ∧ (a = 0x03#5 → v = s.a) ∧ (a = 0x04#5 → v = s.b) ∧ (a = 0x05#5 → v = s.k) ∧
    (a = 0x06#5 → v = s.r) ∧ (a = 0x07#5 → v = s.e) ∧ (a = 0x08#5 → v = s.d) ∧ (a = 0x09#5 → v = s.rounds) ∧
    (a = 0x0A#5 → v = s.rred) ∧ (a = 0x0B#5 → v = s.rcidx) ∧
    (a = 0x0C#5 → (s.rcidx = 0 → v = 0) ∧ (Config.RMAX ≤ s.rcidx → v = 0) ∧
      (1 ≤ s.rcidx → s.rcidx < Config.RMAX →
        (∀ x, Memory.read s.rc s.rcidx = some x → v = x) ∧
        (Memory.read s.rc s.rcidx = none → v < 2 ^ Config.NMAX))) ∧
    (13 ≤ a.toNat → v = 0)

/-- R33's layout and R41, bit by bit of the STATUS word a host reads; ERRCODE holds no code above 8. -/
def Obligations.StatusWordBits : Prop :=
  ∀ s, (hostRead 0x01#5 s).testBit 0 = s.pend.isSome ∧ (hostRead 0x01#5 s).testBit 1 = s.done ∧
    (hostRead 0x01#5 s).testBit 2 = s.err ∧ (hostRead 0x01#5 s).testBit 3 = s.ovr ∧
    hostRead 0x01#5 s / 16 % 16 = s.errcode.code ∧ s.errcode.code ≤ 8 ∧
    (hostRead 0x01#5 s).testBit 8 = s.cfgv ∧ (hostRead 0x01#5 s).testBit 9 = s.perm ∧
    ∀ j, 10 ≤ j → (hostRead 0x01#5 s).testBit j = false

/-- R106: NOP completes whatever WIDTH holds, and changes nothing but BUSY and DONE. -/
def Obligations.NopCompletes : Prop := ∀ s, exec .nop s = .next { s with pend := none, done := true }

/-- 20_memory.md R73 and 70_reset_and_hazards.md R237: a host write at an edge is seen by a read in the cycle after it. -/
def Obligations.ReadAfterWriteReturnsValue : Prop :=
  ∀ (s : State) (a : Addr) v rest, s.pend = none → v < 2 ^ Config.NMAX →
    (a ∈ [0x02#5, 0x03#5, 0x04#5, 0x05#5, 0x07#5, 0x08#5, 0x09#5, 0x0A#5, 0x0B#5] ∨
      (a = 0x0C#5 ∧ 1 ≤ s.rcidx ∧ s.rcidx < Config.RMAX)) →
    s.port = ⟨false, .write a v⟩ :: ⟨false, .read a⟩ :: rest →
    ∃ t u, step s = .next t ∧ step t = .next u ∧ u.rdata = v ∧ u.pend = none ∧ u.port = rest

/-! ## The clock edge (20_memory.md, 70_reset_and_hazards.md) -/

/-- A step runs the decoded instruction: a pending command's word at its completion edge with a quiet port (or none), a
host transaction while no command is pending, and whatever is placed by withFetchWord. -/
def Obligations.StepRunsDecodedInstruction : Prop :=
  ∀ (s : State) (rest : List PortIn) (i : Instr),
    (∀ w c, decode (.cmd w) = .ok i → c ≤ 1 →
      step { s with pend := some ⟨w, c⟩, port := ⟨false, .quiet⟩ :: rest } =
        exec i { s with pend := some ⟨w, c⟩, port := rest } ∧
      step { s with pend := some ⟨w, c⟩, port := [] } = exec i { s with pend := some ⟨w, c⟩, port := [] }) ∧
    (∀ a v, decode (.port (BitVec.append (1#1) a) v) = .ok i → s.pend = none →
      step { s with port := ⟨false, .write a v⟩ :: rest } = exec i { s with port := rest }) ∧
    (∀ a v, decode (.port (BitVec.append (0#1) a) v) = .ok i → s.pend = none →
      step { s with port := ⟨false, .read a⟩ :: rest } = exec i { s with port := rest }) ∧
    (∀ nbits w, decodeTableWord nbits w = some i → s.pend = none →
      (nbits ≤ 8 → step (s.withFetchWord nbits w) = exec i s) ∧
      (8 < nbits → step (s.withFetchWord nbits w) = exec i { s with pend := some ⟨w, 1⟩ }))

/-- R238: a write on the completion edge is dropped and sets OVR, whatever its address (CMD too), and the completion
writes its results. At the next edge that OVR falls only by an accepted command or a reset; of every later edge
StatusClearedOnlyByAcceptOrReset says the same. -/
def Obligations.WriteOnCompletionEdge : Prop :=
  ∀ (s : State) (w c : Nat) (a : Addr) (v : Nat) rest, s.pend = some ⟨w, c⟩ → c ≤ 1 →
    s.port = ⟨false, .write a v⟩ :: rest →
    step s = exec (decodeCmd w) { s with port := rest, ovr := true } ∧
    ∀ t, step s = .next t → t.ovr = true ∧ t.pend = none ∧ t.done = true ∧
      ∀ u, step t = .next u → u.ovr = false →
        ∃ p, t.port.head? = some p ∧ (p.rst = true ∨ ∃ x, p.txn = .write 0x00#5 x)

/-- R236: at an edge of a pending command before its completion edge, R, D, E, ROUNDS, CFGV and DONE keep their values,
whatever the host does but reset. -/
def Obligations.ResultsHoldWhileBusy : Prop :=
  ∀ (s : State) (q : Pending), s.pend = some q → 2 ≤ q.cyclesLeft →
    (∀ p, s.port.head? = some p → p.rst = false) →
    ∃ t, step s = .next t ∧ t.pend = some ⟨q.word, q.cyclesLeft - 1⟩ ∧ t.r = s.r ∧ t.d = s.d ∧ t.e = s.e ∧
      t.rounds = s.rounds ∧ t.cfgv = s.cfgv ∧ t.done = s.done ∧ (s.StatusOk → t.done = false) ∧ t.width = s.width ∧ t.a = s.a ∧ t.b = s.b ∧
      t.k = s.k ∧ t.rc = s.rc

/-- R234: a command accepted at an edge completes at the L-th edge after it, L = LAT(w, operands), for every L and whatever
transactions the host makes meanwhile (but reset). BUSY is 1 and DONE 0 until then, nothing changes but OVR and the model's
own fields, and the completion runs the command on the registers of the acceptance. -/
def Obligations.CommandCompletesAfterLatency : Prop :=
  ∀ (s : State) (w : Nat) (rest : List PortIn), s.pend = none → w < 2 ^ Config.PW →
    s.port = ⟨false, .write 0x00#5 w⟩ :: rest → (∀ p ∈ rest, p.rst = false) →
    ∃ t, step s = .next t ∧ t.pend = some ⟨w, Config.LAT w s.operands⟩ ∧
      (∀ j, j < Config.LAT w s.operands →
        ∃ u, core.run j t = .next u ∧ u.pend.isSome = true ∧ u.done = false ∧
          u = { t with pend := u.pend, ovr := u.ovr, rdata := u.rdata, freeCount := u.freeCount,
                       port := rest.drop j }) ∧
      (∃ v : State, v = { t with pend := some ⟨w, 1⟩, ovr := v.ovr, rdata := v.rdata, freeCount := v.freeCount,
                                 port := rest.drop (Config.LAT w s.operands) } ∧
        core.run (Config.LAT w s.operands) t = exec (decodeCmd w) v) ∧
      ∀ u, core.run (Config.LAT w s.operands) t = .next u → u.pend = none ∧ u.done = true

/-- R230 and R49: an edge with rst = 1 takes every piece of the unit's state to its reset value, whatever the host does
at it and whatever command is pending. -/
def Obligations.ResetEdgeResetsEverything : Prop :=
  ∀ (s : State) p rest, s.port = p :: rest → p.rst = true →
    ∃ t, step s = .next t ∧ t.width = 0 ∧ t.a = 0 ∧ t.b = 0 ∧ t.k = 0 ∧ t.r = 0 ∧ t.e = 0 ∧ t.d = 0 ∧
      t.rounds = 0 ∧ t.rred = 0 ∧ t.rcidx = 0 ∧ t.done = false ∧ t.err = false ∧ t.ovr = false ∧
      t.errcode = .none ∧ t.cfgv = false ∧ t.perm = false ∧ t.pend = none ∧ t.port = rest ∧
      Memory.read t.rc 0 = some 0 ∧ ∀ i, 1 ≤ i → Memory.read t.rc i = none

/-- 60_exceptions.md R212 and R215: DONE, ERR, OVR and ERRCODE are cleared by the next accepted command or by a reset, and
by nothing else. -/
def Obligations.StatusClearedOnlyByAcceptOrReset : Prop :=
  ∀ s t, step s = .next t →
    ((s.done = true ∧ t.done = false) ∨ (s.err = true ∧ t.err = false) ∨ (s.ovr = true ∧ t.ovr = false) ∨
      (s.errcode ≠ .none ∧ t.errcode = .none)) →
    ∃ p, s.port.head? = some p ∧
      (p.rst = true ∨ (s.pend = none ∧ t.pend.isSome = true ∧ ∃ w, p.txn = .write 0x00#5 w))

/-- 10_state.md R32: an entry of RC changes only by a host write through RCDATA to it while BUSY = 0, or by a reset. -/
def Obligations.RcChangesOnlyByHostWrite : Prop :=
  ∀ s t i, step s = .next t → Memory.read t.rc i ≠ Memory.read s.rc i →
    ∃ p, s.port.head? = some p ∧
      (p.rst = true ∨
        (s.pend = none ∧ i = s.rcidx ∧ 1 ≤ i ∧ i < Config.RMAX ∧
          ∃ v, p.txn = .write 0x0C#5 v ∧ Memory.read t.rc i = some (v % 2 ^ Config.NMAX)))

/-- 10_state.md R33: CFGV rises only at the completion edge of a CONFIG. -/
def Obligations.CfgvRaisedOnlyByConfig : Prop :=
  ∀ s t, step s = .next t → s.cfgv = false → t.cfgv = true →
    ∃ q, s.pend = some q ∧ q.cyclesLeft ≤ 1 ∧ (decodeCmd q.word).isConfig = true

/-- The host's LDRC (30_encoding.md R90): two edges load one round constant and clear CFGV. -/
def Obligations.LdrcLoadsEntry : Prop :=
  ∀ (s : State) i v rest, s.pend = none → 1 ≤ i → i < Config.RMAX → i < 2 ^ Config.PW → v < 2 ^ Config.NMAX →
    s.port = ldrc i v ++ rest →
    ∃ t u, step s = .next t ∧ step t = .next u ∧ Memory.read u.rc i = some v ∧ u.rcidx = i ∧ u.cfgv = false ∧
      (∀ j, j ≠ i → Memory.read u.rc j = Memory.read s.rc j) ∧
      u = { s with rc := u.rc, rcidx := i, cfgv := false, port := rest }

/-! ## Field arithmetic (41_field_arithmetic.md) -/

/-- R122 and R160: ADD and KADD, at every width in range. -/
def Obligations.AddAndKaddComplete : Prop :=
  ∀ s, 1 ≤ s.width → s.width ≤ Config.NMAX →
    exec .add s =
      .next { s with pend := none, done := true, r := (s.a % 2 ^ s.width) ^^^ (s.b % 2 ^ s.width) } ∧
    exec .kadd s =
      .next { s with pend := none, done := true, r := (s.a % 2 ^ s.width) ^^^ (s.k % 2 ^ s.width) }

/-- R123: MUL completes with the value of the datapath, and the rule's corner cases of that value. -/
def Obligations.MulCompletesWithDatapathValue : Prop :=
  (∀ s p, 1 ≤ s.width → s.width ≤ Config.NMAX → Config.IRRED s.width = some p →
    exec .mul s = .next { s with pend := none, done := true,
                                 r := gfMul s.width p (s.a % 2 ^ s.width) (s.b % 2 ^ s.width) }) ∧
  ∀ n p x, 1 ≤ n → 2 ^ n ≤ p → p < 2 ^ (n + 1) → x < 2 ^ n →
    gfMul n p 0 x = 0 ∧ gfMul n p x 0 = 0 ∧ gfMul n p x 1 = x ∧ gfMul n p 1 x = x

/-- 41_field_arithmetic.md R124, the spec's inference: MUL writes the product of the polynomials reduced modulo P. -/
def Obligations.MulIsReducedProduct : Prop :=
  ∀ s p, 1 ≤ s.width → s.width ≤ Config.NMAX → Config.IRRED s.width = some p →
    exec .mul s = .next { s with pend := none, done := true,
                                 r := polymod (clmul (s.a % 2 ^ s.width) (s.b % 2 ^ s.width)) p }

/-- 41_field_arithmetic.md R127, the spec's inference ("[derived: ...]"): POW's square-and-multiply (R125) and POWN's naive
repeated multiplication (R126) both write gf_pow_n(a, e), the product of e copies of a, with e = x[E] whole. -/
def Obligations.PowAndPownComplete : Prop :=
  ∀ s p, 1 ≤ s.width → s.width ≤ Config.NMAX → Config.IRRED s.width = some p →
    exec .pow s = .next { s with pend := none, done := true,
                                 r := gfPow s.width p (s.a % 2 ^ s.width) s.e } ∧
    exec .pown s = .next { s with pend := none, done := true,
                                  r := gfPow s.width p (s.a % 2 ^ s.width) s.e }

/-- R120: ADD, MUL, POW and POWN write nothing but R and STATUS; each result is an n-bit value that depends only on fe(A),
fe(B), E, n and P. -/
def Obligations.FieldResultsDependOnlyOnOperands : Prop :=
  ∀ i ∈ [Instr.add, .mul, .pow, .pown], ∀ s t s' t', exec i s = .next s' → exec i t = .next t' →
    s.width = t.width → s.e = t.e → s.a % 2 ^ s.width = t.a % 2 ^ s.width →
    s.b % 2 ^ s.width = t.b % 2 ^ s.width → s.err = false → t.err = false →
    s'.err = t'.err ∧ (s'.err = false → s'.r = t'.r ∧ s'.r < 2 ^ s.width) ∧
    s' = { s with pend := none, done := true, err := s'.err, errcode := s'.errcode, r := s'.r }

/-! ## Integer functions (42_number_theory.md) -/

/-- R142. -/
def Obligations.GcdCompletes : Prop :=
  ∀ s, 1 ≤ s.width → s.width ≤ Config.NMAX →
    exec .gcd s = .next { s with pend := none, done := true,
                                 r := Nat.gcd (s.a % 2 ^ s.width) (s.b % 2 ^ s.width) }

/-- R143: the verdict is a result, not an error. -/
def Obligations.PermchkCompletes : Prop :=
  ∀ s, 1 ≤ s.width → s.width ≤ Config.NMAX →
    exec .permchk s =
      .next { s with pend := none, done := true, r := Nat.gcd s.e (2 ^ s.width - 1),
                     perm := decide (Nat.gcd s.e (2 ^ s.width - 1) = 1) }

/-- 42_number_theory.md R145 and R146: DEXP completes whenever e >= 2 and gcd(e, M_n) = 1 (that a t then exists is the
spec's inference), and D takes the exponent of the smallest t. -/
def Obligations.DexpCompletes : Prop :=
  ∀ s, 1 ≤ s.width → s.width ≤ Config.NMAX → 2 ≤ s.e → Nat.gcd s.e (2 ^ s.width - 1) = 1 →
    ∃ t d, 1 ≤ t ∧ t < s.e ∧ d * s.e = 1 + t * (2 ^ s.width - 1) ∧
      (∀ u, 1 ≤ u → u < t → (1 + u * (2 ^ s.width - 1)) % s.e ≠ 0) ∧
      exec .dexp s = .next { s with pend := none, done := true, d := d }

/-- R206: DEXP raises NO_DEXP when there is no exponent, with D unchanged; no other command raises it, CONFIG included. -/
def Obligations.NoDexpRaisedOnlyByDexp : Prop :=
  (∀ s, 1 ≤ s.width → s.width ≤ Config.NMAX → dexp s.e s.width = none →
    exec .dexp s = .next { s with pend := none, done := true, err := true, errcode := .noDexp }) ∧
  ∀ i s t, i.isCommand = true → i ≠ .dexp → exec i s = .next t → s.errcode ≠ .noDexp → t.errcode ≠ .noDexp

/-! ## Round datapath (43_mimc_round.md) -/

/-- R161 and R162: ROUND powers by E, IROUND by D. Neither looks at CFGV. -/
def Obligations.RoundAndIroundComplete : Prop :=
  ∀ s p, 1 ≤ s.width → s.width ≤ Config.NMAX → Config.IRRED s.width = some p →
    exec .round s =
      .next { s with pend := none, done := true,
                     r := gfPow s.width p
                       ((s.a % 2 ^ s.width) ^^^ (s.k % 2 ^ s.width) ^^^ (s.b % 2 ^ s.width)) s.e } ∧
    exec .iround s =
      .next { s with pend := none, done := true,
                     r := gfPow s.width p
                       ((s.a % 2 ^ s.width) ^^^ (s.k % 2 ^ s.width) ^^^ (s.b % 2 ^ s.width)) s.d }

/-- 43_mimc_round.md R163, the spec's inference: IROUND of (y, 0, 0) undoes the power map of the ROUND that gave y. -/
def Obligations.IroundUndoesRound : Prop :=
  ∀ s p, 1 ≤ s.width → s.width ≤ Config.NMAX → Config.IRRED s.width = some p →
    dexp s.e s.width = some s.d →
    ∃ t u, exec .round s = .next t ∧ exec .iround { t with a := t.r, k := 0, b := 0 } = .next u ∧
      u.r = (s.a % 2 ^ s.width) ^^^ (s.k % 2 ^ s.width) ^^^ (s.b % 2 ^ s.width)

/-! ## Construction and ciphers (44_cipher_sequencer.md) -/

/-- 44_cipher_sequencer.md R171, R172, R178, R181: CONFIG with AUTOR = 0 commits the variant's exponent, the supplied count
and the decryption exponent. That the exponent is defined after the checks is the spec's inference (R180, "[derived: ...]";
log entry 14, DEDUCED). For MiMC an odd width is enough (R173). -/
def Obligations.ConfigSuppliedRoundsCommits : Prop :=
  ∀ s, 1 ≤ s.width → s.width ≤ Config.NMAX → 1 ≤ s.rounds → s.rounds ≤ Config.RMAX →
    (2 ≤ s.e → Nat.gcd s.e (2 ^ s.width - 1) = 1 → ∃ d, dexp s.e s.width = some d ∧
      exec .configGn s = .next { s with pend := none, done := true, d := d, cfgv := true }) ∧
    (s.width % 2 = 1 → ∃ d, dexp 3 s.width = some d ∧
      exec .configMimc s = .next { s with pend := none, done := true, e := 3, d := d, cfgv := true }) ∧
    (Nat.gcd 5 (2 ^ s.width - 1) = 1 → ∃ d, dexp 5 s.width = some d ∧
      exec .configMimc5 s = .next { s with pend := none, done := true, e := 5, d := d, cfgv := true })

/-- 44_cipher_sequencer.md R171, R172, R177, R181: CONFIG with AUTOR = 1 commits the derived count r, the smallest with
e^r >= 2^n, less RRED for MiMCGn alone. Two clauses are the spec's inferences ("[derived: ...]"): no bound on RMAX is needed,
since r <= n <= NMAX <= RMAX (R179), and the decryption exponent is defined after the checks (R180; log entry 14, DEDUCED). -/
def Obligations.ConfigDerivedRoundsCommits : Prop :=
  ∀ s r, 1 ≤ s.width → s.width ≤ Config.NMAX → 1 ≤ r →
    (2 ≤ s.e → Nat.gcd s.e (2 ^ s.width - 1) = 1 → 2 ^ s.width ≤ s.e ^ r →
      (∀ q, 1 ≤ q → q < r → s.e ^ q < 2 ^ s.width) → s.rred < r → ∃ d, dexp s.e s.width = some d ∧
      exec .configGnAuto s =
        .next { s with pend := none, done := true, rounds := r - s.rred, d := d, cfgv := true }) ∧
    (s.width % 2 = 1 → 2 ^ s.width ≤ 3 ^ r → (∀ q, 1 ≤ q → q < r → 3 ^ q < 2 ^ s.width) →
      ∃ d, dexp 3 s.width = some d ∧
      exec .configMimcAuto s =
        .next { s with pend := none, done := true, e := 3, rounds := r, d := d, cfgv := true }) ∧
    (Nat.gcd 5 (2 ^ s.width - 1) = 1 → 2 ^ s.width ≤ 5 ^ r → (∀ q, 1 ≤ q → q < r → 5 ^ q < 2 ^ s.width) →
      ∃ d, dexp 5 s.width = some d ∧
      exec .configMimc5Auto s =
        .next { s with pend := none, done := true, e := 5, rounds := r, d := d, cfgv := true })

/-- R173, R174, R175, with R107's width check before them: the first check that fails gives the code; CFGV is cleared and
none of E, ROUNDS, D is written. -/
def Obligations.ConfigChecksInOrder : Prop :=
  ∀ v auto s e, e = (match v with | .gn => s.e | .mimc => 3 | .mimc5 => 5) →
    (s.width = 0 ∨ Config.NMAX < s.width →
      exec (configInstr v auto) s =
        .next { s with pend := none, done := true, err := true, errcode := .unsupportedWidth, cfgv := false }) ∧
    (1 ≤ s.width → s.width ≤ Config.NMAX →
      (v = .mimc ∧ s.width % 2 = 0 →
        exec (configInstr v auto) s =
          .next { s with pend := none, done := true, err := true, errcode := .cfgEvenWidth, cfgv := false }) ∧
      (¬(v = .mimc ∧ s.width % 2 = 0) → e < 2 →
        exec (configInstr v auto) s =
          .next { s with pend := none, done := true, err := true, errcode := .cfgExponent, cfgv := false }) ∧
      (¬(v = .mimc ∧ s.width % 2 = 0) → 2 ≤ e → Nat.gcd e (2 ^ s.width - 1) ≠ 1 →
        exec (configInstr v auto) s =
          .next { s with pend := none, done := true, err := true, errcode := .cfgNotPerm, cfgv := false }))

/-- R179: after the earlier checks pass, a round count below 1 or above RMAX fails with CFG_ROUNDS; a reduction of at
least the derived count r leaves r <= 0. -/
def Obligations.ConfigRoundRange : Prop :=
  ∀ v s e, e = (match v with | .gn => s.e | .mimc => 3 | .mimc5 => 5) →
    1 ≤ s.width → s.width ≤ Config.NMAX → ¬(v = .mimc ∧ s.width % 2 = 0) → 2 ≤ e →
    Nat.gcd e (2 ^ s.width - 1) = 1 →
    (s.rounds = 0 ∨ Config.RMAX < s.rounds →
      exec (configInstr v false) s =
        .next { s with pend := none, done := true, err := true, errcode := .cfgRounds, cfgv := false }) ∧
    (∀ r, v = .gn → 1 ≤ r → 2 ^ s.width ≤ e ^ r → (∀ q, 1 ≤ q → q < r → e ^ q < 2 ^ s.width) → r ≤ s.rred →
      exec .configGnAuto s =
        .next { s with pend := none, done := true, err := true, errcode := .cfgRounds, cfgv := false })

/-- R182: ENC with a held configuration and its constants loaded. -/
def Obligations.EncCompletes : Prop :=
  ∀ (s : State) (p : Nat) (c : Nat → Nat), 1 ≤ s.width → s.width ≤ Config.NMAX → Config.IRRED s.width = some p →
    s.cfgv = true → (∀ i, i < s.rounds → Memory.read s.rc i = some (c i)) →
    exec .enc s =
      .next { s with pend := none, done := true,
                     r := (List.range s.rounds).foldl
                         (fun st i => gfPow s.width p
                           (st ^^^ (s.k % 2 ^ s.width) ^^^ (c i % 2 ^ s.width)) s.e)
                         (s.a % 2 ^ s.width) ^^^ (s.k % 2 ^ s.width) }

/-- R183: DEC reads the constants 0, r-1, r-2, ..., 1 and powers by D. -/
def Obligations.DecCompletes : Prop :=
  ∀ (s : State) (p : Nat) (c : Nat → Nat), 1 ≤ s.width → s.width ≤ Config.NMAX → Config.IRRED s.width = some p →
    s.cfgv = true → (∀ i, i < s.rounds → Memory.read s.rc i = some (c i)) →
    exec .dec s =
      .next { s with pend := none, done := true,
                     r := (List.range s.rounds).foldl
                         (fun st j => gfPow s.width p
                           (st ^^^ (s.k % 2 ^ s.width) ^^^ (c (if j = 0 then 0 else s.rounds - j) % 2 ^ s.width)) s.d)
                         (s.a % 2 ^ s.width) ^^^ (s.k % 2 ^ s.width) }

/-- R184: ENC and DEC check CFGV first, then the table. -/
def Obligations.CipherPreconditionsInOrder : Prop :=
  ∀ i ∈ [Instr.enc, .dec], ∀ s,
    (1 ≤ s.width → s.width ≤ Config.NMAX → s.cfgv = false →
      exec i s = .next { s with pend := none, done := true, err := true, errcode := .notConfigured }) ∧
    (s.cfgv = true → Config.IRRED s.width = none →
      exec i s = .next { s with pend := none, done := true, err := true, errcode := .unsupportedWidth })

/-- R186: with the preconditions met, an ENC or DEC one of whose entries 1 to r-1 no host write has reached since reset
ends in the model's fault, on such an entry. -/
def Obligations.UnwrittenConstantFaults : Prop :=
  ∀ i ∈ [Instr.enc, .dec], ∀ s p j, 1 ≤ s.width → s.width ≤ Config.NMAX → Config.IRRED s.width = some p →
    s.cfgv = true → 1 ≤ j → j < s.rounds → Memory.read s.rc j = none →
    ∃ f, exec i s = .fault (.rcEntryUnwritten f) ∧ 1 ≤ f ∧ f < s.rounds ∧ Memory.read s.rc f = none

/-- 44_cipher_sequencer.md R185, the spec's inference and the source's round-trip property: DEC of what ENC gave, under
the same configuration and key, gives the plaintext back, at every width of the table, for every A and K. -/
def Obligations.DecryptOfEncrypt : Prop :=
  ∀ s p, s.Inv → s.cfgv = true → Config.IRRED s.width = some p → s.ConstantsLoaded →
    ∃ t u, exec .enc s = .next t ∧ exec .dec { t with a := t.r } = .next u ∧ u.r = s.a % 2 ^ s.width

/-! ## Errors and whole-machine rules (10_state.md, 60_exceptions.md) -/

/-- R203: UNSUPPORTED_WIDTH. WIDTH out of range stops every legal command but NOP (and a CONFIG then clears CFGV); an
absent table entry stops the commands that need it. -/
def Obligations.UnsupportedWidthRaised : Prop :=
  (∀ i ∈ [Instr.add, .mul, .pow, .pown, .gcd, .permchk, .dexp, .kadd, .round, .iround, .enc, .dec], ∀ s,
    s.width = 0 ∨ Config.NMAX < s.width →
    exec i s = .next { s with pend := none, done := true, err := true, errcode := .unsupportedWidth }) ∧
  (∀ v auto s, s.width = 0 ∨ Config.NMAX < s.width →
    exec (configInstr v auto) s =
      .next { s with pend := none, done := true, err := true, errcode := .unsupportedWidth, cfgv := false }) ∧
  (∀ i ∈ [Instr.mul, .pow, .pown, .round, .iround], ∀ s, Config.IRRED s.width = none →
    exec i s = .next { s with pend := none, done := true, err := true, errcode := .unsupportedWidth }) ∧
  (∀ i ∈ [Instr.enc, .dec], ∀ s, s.cfgv = true → Config.IRRED s.width = none →
    exec i s = .next { s with pend := none, done := true, err := true, errcode := .unsupportedWidth })

/-- R211: a command that raises an error writes BUSY, DONE, ERR and ERRCODE, and, only for CONFIG with a code other than
ILLEGAL_CMD, CFGV <- 0. -/
def Obligations.ErrorsArePrecise : Prop :=
  ∀ i s t, i.isCommand = true → s.err = false → exec i s = .next t → t.err = true →
    t = { s with pend := none, done := true, err := true, errcode := t.errcode, cfgv := t.cfgv } ∧
    t.errcode ≠ .none ∧ (i.isConfig = true → t.cfgv = false) ∧ (i.isConfig = false → t.cfgv = s.cfgv)

/-- 10_state.md R21 (column "written by commands"), R40, R47: what a command that answers a next state can change. -/
def Obligations.CommandsWriteOnlyTheirRegisters : Prop :=
  ∀ i s t, i.isCommand = true → exec i s = .next t →
    t.width = s.width ∧ t.a = s.a ∧ t.b = s.b ∧ t.k = s.k ∧ t.rred = s.rred ∧ t.rcidx = s.rcidx ∧ t.rc = s.rc ∧
    t.ovr = s.ovr ∧ t.port = s.port ∧ t.rdata = s.rdata ∧ t.freeCount = s.freeCount ∧ t.pend = none ∧ t.done = true ∧
    (i.writesR = false → t.r = s.r) ∧ (i.isConfig = false → t.e = s.e ∧ t.rounds = s.rounds ∧ t.cfgv = s.cfgv) ∧
    (i.isConfig = false → i ≠ .dexp → t.d = s.d) ∧ (i ≠ .permchk → t.perm = s.perm)

/-- 30_encoding.md R91 and 44_cipher_sequencer.md R186: every instruction but ENC and DEC answers a next state in every
state; ENC and DEC do too, or fault on an entry 1 to r-1 that no host write has reached since reset; nothing is refused. -/
def Obligations.OnlyCipherCommandsCanFault : Prop :=
  ∀ i s, (∃ t, exec i s = .next t) ∨
    ((i = .enc ∨ i = .dec) ∧ ∃ j, 1 ≤ j ∧ j < s.rounds ∧ Memory.read s.rc j = none ∧
      exec i s = .fault (.rcEntryUnwritten j))

/-- Every step keeps the invariant: register widths, RC's canonical form, the status bits' agreement (R35, R36, R38), the
pending command, and what holds while CFGV = 1 (R39). -/
def Obligations.StepKeepsInvariant : Prop := ∀ s t, s.Inv → step s = .next t → t.Inv

/-- The reset state has the invariant. -/
def Obligations.ResetHasInvariant : Prop := State.reset.Inv
end

