-- ==== Sys2Proof/Laws/Bits.lean ====
section
/-! SUPPORT. Laws of the width test, truncation and field elements. -/

namespace Sys2Proof.Laws

theorem bitLen_le_iff (N v : Nat) : bitLen v ≤ N ↔ v < 2 ^ N := by
  unfold bitLen
  by_cases hv : v = 0
  · simp [hv]
  · simp only [hv, if_false]
    rw [Nat.succ_le_iff, Nat.log2_lt hv]

theorem fits_iff (N v : Nat) : fits N v = true ↔ v < 2 ^ N := by
  simp [fits, bitLen_le_iff]

theorem lt_two_pow_bitLen (v : Nat) : v < 2 ^ bitLen v := (bitLen_le_iff _ _).1 (Nat.le_refl _)

/-- R12: `trunc_N(v)` is `v mod 2^N`. -/
theorem trunc_eq_mod (N v : Nat) : trunc N v = v % 2 ^ N := by
  unfold trunc
  split
  · rename_i h
    rw [Nat.mod_eq_of_lt ((fits_iff N v).1 h)]
  · rfl

theorem trunc_lt (N v : Nat) : trunc N v < 2 ^ N := by
  rw [trunc_eq_mod]
  exact Nat.mod_lt _ (Nat.two_pow_pos N)

theorem trunc_of_lt {N v : Nat} (h : v < 2 ^ N) : trunc N v = v := by
  rw [trunc_eq_mod, Nat.mod_eq_of_lt h]

/-- Truncation to a wider bus first changes nothing. -/
theorem trunc_trunc {M N : Nat} (h : M ≤ N) (v : Nat) : trunc M (trunc N v) = trunc M v := by
  simp only [trunc_eq_mod]
  exact Nat.mod_mod_of_dvd v (pow_dvd_pow 2 h)

theorem fe_eq_mod (n v : Nat) : Machine.fe n v = v % 2 ^ n := trunc_eq_mod n v

theorem fe_lt (n v : Nat) : Machine.fe n v < 2 ^ n := trunc_lt n v

end Sys2Proof.Laws
end

