-- ==== Sys2Proof/Laws/Config.lean ====
section
/-! SUPPORT. The constraints of R6 and R7 on the parameters, from the form of their definitions. -/

namespace Sys2Proof.Laws

theorem seventeen_le_NMAX : 17 ≤ Config.NMAX := Nat.le_add_left 17 _

theorem NMAX_le_EW : Config.NMAX ≤ Config.EW := Nat.le_add_left _ _

theorem NMAX_le_RMAX : Config.NMAX ≤ Config.RMAX := Nat.le_add_left _ _

theorem PW_eq_EW : Config.PW = Config.EW := rfl

/-- R6: `PW = max(NMAX, EW)`. -/
theorem PW_eq_max : Config.PW = max Config.NMAX Config.EW := (max_eq_right NMAX_le_EW).symm

theorem NMAX_le_PW : Config.NMAX ≤ Config.PW := NMAX_le_EW

theorem LAT_pos (w : Nat) (ops : Config.Operands) : 1 ≤ Config.LAT w ops := Nat.le_add_left 1 _

theorem IRRED_five : Config.IRRED 5 = some 0x25 := rfl

theorem IRRED_seventeen : Config.IRRED 17 = some 0x20009 := rfl

/-- Every entry of the table passes R7's test; the two fixed entries by computation. -/
theorem IRRED_spec {n p : Nat} (h : Config.IRRED n = some p) :
    1 ≤ n ∧ n ≤ Config.NMAX ∧ irreducible n p = true := by
  have h17 := seventeen_le_NMAX
  unfold Config.IRRED at h
  split at h
  · rename_i h5
    subst h5
    cases h
    exact ⟨by omega, by omega, by decide +kernel⟩
  · split at h
    · rename_i h17'
      subst h17'
      cases h
      exact ⟨by omega, h17, by decide +kernel⟩
    · split at h
      · rename_i hr
        exact ⟨hr.1, hr.2, (Option.filter_eq_some_iff.1 h).2⟩
      · cases h

/-- R7: "Every entry has bit n set and bits above n clear". -/
theorem IRRED_degree {n p : Nat} (h : Config.IRRED n = some p) : 2 ^ n ≤ p ∧ p < 2 ^ (n + 1) := by
  have hi := (IRRED_spec h).2.2
  simp only [irreducible, Bool.and_eq_true, beq_iff_eq] at hi
  have hle : bitLen p ≤ n + 1 := by omega
  have hgt : ¬ bitLen p ≤ n := by omega
  rw [bitLen_le_iff] at hle hgt
  exact ⟨by omega, hle⟩

end Sys2Proof.Laws
end

