-- ==== Sys2Proof/Laws/State.lean ====
section
/-! SUPPORT. What each update of State leaves in each field: one lemma for each field of each update. -/

namespace Sys2Proof.Machine

/-! The writes every completion makes (R107). -/

@[simp] theorem finish_width (s : State) : s.finish.width = s.width := rfl
@[simp] theorem finish_a (s : State) : s.finish.a = s.a := rfl
@[simp] theorem finish_b (s : State) : s.finish.b = s.b := rfl
@[simp] theorem finish_k (s : State) : s.finish.k = s.k := rfl
@[simp] theorem finish_r (s : State) : s.finish.r = s.r := rfl
@[simp] theorem finish_e (s : State) : s.finish.e = s.e := rfl
@[simp] theorem finish_d (s : State) : s.finish.d = s.d := rfl
@[simp] theorem finish_rounds (s : State) : s.finish.rounds = s.rounds := rfl
@[simp] theorem finish_rred (s : State) : s.finish.rred = s.rred := rfl
@[simp] theorem finish_rcidx (s : State) : s.finish.rcidx = s.rcidx := rfl
@[simp] theorem finish_done (s : State) : s.finish.done = true := rfl
@[simp] theorem finish_err (s : State) : s.finish.err = s.err := rfl
@[simp] theorem finish_ovr (s : State) : s.finish.ovr = s.ovr := rfl
@[simp] theorem finish_errcode (s : State) : s.finish.errcode = s.errcode := rfl
@[simp] theorem finish_cfgv (s : State) : s.finish.cfgv = s.cfgv := rfl
@[simp] theorem finish_perm (s : State) : s.finish.perm = s.perm := rfl
@[simp] theorem finish_rc (s : State) : s.finish.rc = s.rc := rfl
@[simp] theorem finish_pend (s : State) : s.finish.pend = none := rfl
@[simp] theorem finish_port (s : State) : s.finish.port = s.port := rfl
@[simp] theorem finish_rdata (s : State) : s.finish.rdata = s.rdata := rfl
@[simp] theorem finish_freeCount (s : State) : s.finish.freeCount = s.freeCount := rfl

/-! The writes of an error (R211). -/

@[simp] theorem finishError_width (c : ErrCode) (s : State) : (s.finishError c).width = s.width := rfl
@[simp] theorem finishError_a (c : ErrCode) (s : State) : (s.finishError c).a = s.a := rfl
@[simp] theorem finishError_b (c : ErrCode) (s : State) : (s.finishError c).b = s.b := rfl
@[simp] theorem finishError_k (c : ErrCode) (s : State) : (s.finishError c).k = s.k := rfl
@[simp] theorem finishError_r (c : ErrCode) (s : State) : (s.finishError c).r = s.r := rfl
@[simp] theorem finishError_e (c : ErrCode) (s : State) : (s.finishError c).e = s.e := rfl
@[simp] theorem finishError_d (c : ErrCode) (s : State) : (s.finishError c).d = s.d := rfl
@[simp] theorem finishError_rounds (c : ErrCode) (s : State) : (s.finishError c).rounds = s.rounds := rfl
@[simp] theorem finishError_rred (c : ErrCode) (s : State) : (s.finishError c).rred = s.rred := rfl
@[simp] theorem finishError_rcidx (c : ErrCode) (s : State) : (s.finishError c).rcidx = s.rcidx := rfl
@[simp] theorem finishError_done (c : ErrCode) (s : State) : (s.finishError c).done = true := rfl
@[simp] theorem finishError_err (c : ErrCode) (s : State) : (s.finishError c).err = true := rfl
@[simp] theorem finishError_ovr (c : ErrCode) (s : State) : (s.finishError c).ovr = s.ovr := rfl
@[simp] theorem finishError_errcode (c : ErrCode) (s : State) : (s.finishError c).errcode = c := rfl
@[simp] theorem finishError_cfgv (c : ErrCode) (s : State) : (s.finishError c).cfgv = s.cfgv := rfl
@[simp] theorem finishError_perm (c : ErrCode) (s : State) : (s.finishError c).perm = s.perm := rfl
@[simp] theorem finishError_rc (c : ErrCode) (s : State) : (s.finishError c).rc = s.rc := rfl
@[simp] theorem finishError_pend (c : ErrCode) (s : State) : (s.finishError c).pend = none := rfl
@[simp] theorem finishError_port (c : ErrCode) (s : State) : (s.finishError c).port = s.port := rfl
@[simp] theorem finishError_rdata (c : ErrCode) (s : State) : (s.finishError c).rdata = s.rdata := rfl
@[simp] theorem finishError_freeCount (c : ErrCode) (s : State) : (s.finishError c).freeCount = s.freeCount := rfl

/-! The writes of a result to R (R26). -/

@[simp] theorem finishResult_width (v : Nat) (s : State) : (s.finishResult v).width = s.width := rfl
@[simp] theorem finishResult_a (v : Nat) (s : State) : (s.finishResult v).a = s.a := rfl
@[simp] theorem finishResult_b (v : Nat) (s : State) : (s.finishResult v).b = s.b := rfl
@[simp] theorem finishResult_k (v : Nat) (s : State) : (s.finishResult v).k = s.k := rfl
@[simp] theorem finishResult_r (v : Nat) (s : State) : (s.finishResult v).r = v := rfl
@[simp] theorem finishResult_e (v : Nat) (s : State) : (s.finishResult v).e = s.e := rfl
@[simp] theorem finishResult_d (v : Nat) (s : State) : (s.finishResult v).d = s.d := rfl
@[simp] theorem finishResult_rounds (v : Nat) (s : State) : (s.finishResult v).rounds = s.rounds := rfl
@[simp] theorem finishResult_rred (v : Nat) (s : State) : (s.finishResult v).rred = s.rred := rfl
@[simp] theorem finishResult_rcidx (v : Nat) (s : State) : (s.finishResult v).rcidx = s.rcidx := rfl
@[simp] theorem finishResult_done (v : Nat) (s : State) : (s.finishResult v).done = true := rfl
@[simp] theorem finishResult_err (v : Nat) (s : State) : (s.finishResult v).err = s.err := rfl
@[simp] theorem finishResult_ovr (v : Nat) (s : State) : (s.finishResult v).ovr = s.ovr := rfl
@[simp] theorem finishResult_errcode (v : Nat) (s : State) : (s.finishResult v).errcode = s.errcode := rfl
@[simp] theorem finishResult_cfgv (v : Nat) (s : State) : (s.finishResult v).cfgv = s.cfgv := rfl
@[simp] theorem finishResult_perm (v : Nat) (s : State) : (s.finishResult v).perm = s.perm := rfl
@[simp] theorem finishResult_rc (v : Nat) (s : State) : (s.finishResult v).rc = s.rc := rfl
@[simp] theorem finishResult_pend (v : Nat) (s : State) : (s.finishResult v).pend = none := rfl
@[simp] theorem finishResult_port (v : Nat) (s : State) : (s.finishResult v).port = s.port := rfl
@[simp] theorem finishResult_rdata (v : Nat) (s : State) : (s.finishResult v).rdata = s.rdata := rfl
@[simp] theorem finishResult_freeCount (v : Nat) (s : State) : (s.finishResult v).freeCount = s.freeCount := rfl

/-! A dropped write (R100). -/

@[simp] theorem setOverrun_width (s : State) : s.setOverrun.width = s.width := rfl
@[simp] theorem setOverrun_a (s : State) : s.setOverrun.a = s.a := rfl
@[simp] theorem setOverrun_b (s : State) : s.setOverrun.b = s.b := rfl
@[simp] theorem setOverrun_k (s : State) : s.setOverrun.k = s.k := rfl
@[simp] theorem setOverrun_r (s : State) : s.setOverrun.r = s.r := rfl
@[simp] theorem setOverrun_e (s : State) : s.setOverrun.e = s.e := rfl
@[simp] theorem setOverrun_d (s : State) : s.setOverrun.d = s.d := rfl
@[simp] theorem setOverrun_rounds (s : State) : s.setOverrun.rounds = s.rounds := rfl
@[simp] theorem setOverrun_rred (s : State) : s.setOverrun.rred = s.rred := rfl
@[simp] theorem setOverrun_rcidx (s : State) : s.setOverrun.rcidx = s.rcidx := rfl
@[simp] theorem setOverrun_done (s : State) : s.setOverrun.done = s.done := rfl
@[simp] theorem setOverrun_err (s : State) : s.setOverrun.err = s.err := rfl
@[simp] theorem setOverrun_ovr (s : State) : s.setOverrun.ovr = true := rfl
@[simp] theorem setOverrun_errcode (s : State) : s.setOverrun.errcode = s.errcode := rfl
@[simp] theorem setOverrun_cfgv (s : State) : s.setOverrun.cfgv = s.cfgv := rfl
@[simp] theorem setOverrun_perm (s : State) : s.setOverrun.perm = s.perm := rfl
@[simp] theorem setOverrun_rc (s : State) : s.setOverrun.rc = s.rc := rfl
@[simp] theorem setOverrun_pend (s : State) : s.setOverrun.pend = s.pend := rfl
@[simp] theorem setOverrun_port (s : State) : s.setOverrun.port = s.port := rfl
@[simp] theorem setOverrun_rdata (s : State) : s.setOverrun.rdata = s.rdata := rfl
@[simp] theorem setOverrun_freeCount (s : State) : s.setOverrun.freeCount = s.freeCount := rfl

/-! A write to the configuration (R72). -/

@[simp] theorem clearCfgv_width (s : State) : s.clearCfgv.width = s.width := rfl
@[simp] theorem clearCfgv_a (s : State) : s.clearCfgv.a = s.a := rfl
@[simp] theorem clearCfgv_b (s : State) : s.clearCfgv.b = s.b := rfl
@[simp] theorem clearCfgv_k (s : State) : s.clearCfgv.k = s.k := rfl
@[simp] theorem clearCfgv_r (s : State) : s.clearCfgv.r = s.r := rfl
@[simp] theorem clearCfgv_e (s : State) : s.clearCfgv.e = s.e := rfl
@[simp] theorem clearCfgv_d (s : State) : s.clearCfgv.d = s.d := rfl
@[simp] theorem clearCfgv_rounds (s : State) : s.clearCfgv.rounds = s.rounds := rfl
@[simp] theorem clearCfgv_rred (s : State) : s.clearCfgv.rred = s.rred := rfl
@[simp] theorem clearCfgv_rcidx (s : State) : s.clearCfgv.rcidx = s.rcidx := rfl
@[simp] theorem clearCfgv_done (s : State) : s.clearCfgv.done = s.done := rfl
@[simp] theorem clearCfgv_err (s : State) : s.clearCfgv.err = s.err := rfl
@[simp] theorem clearCfgv_ovr (s : State) : s.clearCfgv.ovr = s.ovr := rfl
@[simp] theorem clearCfgv_errcode (s : State) : s.clearCfgv.errcode = s.errcode := rfl
@[simp] theorem clearCfgv_cfgv (s : State) : s.clearCfgv.cfgv = false := rfl
@[simp] theorem clearCfgv_perm (s : State) : s.clearCfgv.perm = s.perm := rfl
@[simp] theorem clearCfgv_rc (s : State) : s.clearCfgv.rc = s.rc := rfl
@[simp] theorem clearCfgv_pend (s : State) : s.clearCfgv.pend = s.pend := rfl
@[simp] theorem clearCfgv_port (s : State) : s.clearCfgv.port = s.port := rfl
@[simp] theorem clearCfgv_rdata (s : State) : s.clearCfgv.rdata = s.rdata := rfl
@[simp] theorem clearCfgv_freeCount (s : State) : s.clearCfgv.freeCount = s.freeCount := rfl

/-! Acceptance (R105). -/

@[simp] theorem acceptCmd_width (w : Nat) (l : Nat) (s : State) : (s.acceptCmd w l).width = s.width := rfl
@[simp] theorem acceptCmd_a (w : Nat) (l : Nat) (s : State) : (s.acceptCmd w l).a = s.a := rfl
@[simp] theorem acceptCmd_b (w : Nat) (l : Nat) (s : State) : (s.acceptCmd w l).b = s.b := rfl
@[simp] theorem acceptCmd_k (w : Nat) (l : Nat) (s : State) : (s.acceptCmd w l).k = s.k := rfl
@[simp] theorem acceptCmd_r (w : Nat) (l : Nat) (s : State) : (s.acceptCmd w l).r = s.r := rfl
@[simp] theorem acceptCmd_e (w : Nat) (l : Nat) (s : State) : (s.acceptCmd w l).e = s.e := rfl
@[simp] theorem acceptCmd_d (w : Nat) (l : Nat) (s : State) : (s.acceptCmd w l).d = s.d := rfl
@[simp] theorem acceptCmd_rounds (w : Nat) (l : Nat) (s : State) : (s.acceptCmd w l).rounds = s.rounds := rfl
@[simp] theorem acceptCmd_rred (w : Nat) (l : Nat) (s : State) : (s.acceptCmd w l).rred = s.rred := rfl
@[simp] theorem acceptCmd_rcidx (w : Nat) (l : Nat) (s : State) : (s.acceptCmd w l).rcidx = s.rcidx := rfl
@[simp] theorem acceptCmd_done (w : Nat) (l : Nat) (s : State) : (s.acceptCmd w l).done = false := rfl
@[simp] theorem acceptCmd_err (w : Nat) (l : Nat) (s : State) : (s.acceptCmd w l).err = false := rfl
@[simp] theorem acceptCmd_ovr (w : Nat) (l : Nat) (s : State) : (s.acceptCmd w l).ovr = false := rfl
@[simp] theorem acceptCmd_errcode (w : Nat) (l : Nat) (s : State) : (s.acceptCmd w l).errcode = .none := rfl
@[simp] theorem acceptCmd_cfgv (w : Nat) (l : Nat) (s : State) : (s.acceptCmd w l).cfgv = s.cfgv := rfl
@[simp] theorem acceptCmd_perm (w : Nat) (l : Nat) (s : State) : (s.acceptCmd w l).perm = s.perm := rfl
@[simp] theorem acceptCmd_rc (w : Nat) (l : Nat) (s : State) : (s.acceptCmd w l).rc = s.rc := rfl
@[simp] theorem acceptCmd_pend (w : Nat) (l : Nat) (s : State) : (s.acceptCmd w l).pend = some ⟨w, l⟩ := rfl
@[simp] theorem acceptCmd_port (w : Nat) (l : Nat) (s : State) : (s.acceptCmd w l).port = s.port := rfl
@[simp] theorem acceptCmd_rdata (w : Nat) (l : Nat) (s : State) : (s.acceptCmd w l).rdata = s.rdata := rfl
@[simp] theorem acceptCmd_freeCount (w : Nat) (l : Nat) (s : State) : (s.acceptCmd w l).freeCount = s.freeCount := rfl

/-! The commit of CONFIG (R181). -/

@[simp] theorem configCommit_width (x q y : Nat) (s : State) : (configCommit x q y s).width = s.width := rfl
@[simp] theorem configCommit_a (x q y : Nat) (s : State) : (configCommit x q y s).a = s.a := rfl
@[simp] theorem configCommit_b (x q y : Nat) (s : State) : (configCommit x q y s).b = s.b := rfl
@[simp] theorem configCommit_k (x q y : Nat) (s : State) : (configCommit x q y s).k = s.k := rfl
@[simp] theorem configCommit_r (x q y : Nat) (s : State) : (configCommit x q y s).r = s.r := rfl
@[simp] theorem configCommit_e (x q y : Nat) (s : State) : (configCommit x q y s).e = x := rfl
@[simp] theorem configCommit_d (x q y : Nat) (s : State) : (configCommit x q y s).d = y := rfl
@[simp] theorem configCommit_rounds (x q y : Nat) (s : State) : (configCommit x q y s).rounds = q := rfl
@[simp] theorem configCommit_rred (x q y : Nat) (s : State) : (configCommit x q y s).rred = s.rred := rfl
@[simp] theorem configCommit_rcidx (x q y : Nat) (s : State) : (configCommit x q y s).rcidx = s.rcidx := rfl
@[simp] theorem configCommit_done (x q y : Nat) (s : State) : (configCommit x q y s).done = true := rfl
@[simp] theorem configCommit_err (x q y : Nat) (s : State) : (configCommit x q y s).err = s.err := rfl
@[simp] theorem configCommit_ovr (x q y : Nat) (s : State) : (configCommit x q y s).ovr = s.ovr := rfl
@[simp] theorem configCommit_errcode (x q y : Nat) (s : State) : (configCommit x q y s).errcode = s.errcode := rfl
@[simp] theorem configCommit_cfgv (x q y : Nat) (s : State) : (configCommit x q y s).cfgv = true := rfl
@[simp] theorem configCommit_perm (x q y : Nat) (s : State) : (configCommit x q y s).perm = s.perm := rfl
@[simp] theorem configCommit_rc (x q y : Nat) (s : State) : (configCommit x q y s).rc = s.rc := rfl
@[simp] theorem configCommit_pend (x q y : Nat) (s : State) : (configCommit x q y s).pend = none := rfl
@[simp] theorem configCommit_port (x q y : Nat) (s : State) : (configCommit x q y s).port = s.port := rfl
@[simp] theorem configCommit_rdata (x q y : Nat) (s : State) : (configCommit x q y s).rdata = s.rdata := rfl
@[simp] theorem configCommit_freeCount (x q y : Nat) (s : State) : (configCommit x q y s).freeCount = s.freeCount := rfl

/-! A host read (R102). -/

@[simp] theorem takeRead_width (addr : Addr) (s : State) : (takeRead addr s).width = s.width := rfl
@[simp] theorem takeRead_a (addr : Addr) (s : State) : (takeRead addr s).a = s.a := rfl
@[simp] theorem takeRead_b (addr : Addr) (s : State) : (takeRead addr s).b = s.b := rfl
@[simp] theorem takeRead_k (addr : Addr) (s : State) : (takeRead addr s).k = s.k := rfl
@[simp] theorem takeRead_r (addr : Addr) (s : State) : (takeRead addr s).r = s.r := rfl
@[simp] theorem takeRead_e (addr : Addr) (s : State) : (takeRead addr s).e = s.e := rfl
@[simp] theorem takeRead_d (addr : Addr) (s : State) : (takeRead addr s).d = s.d := rfl
@[simp] theorem takeRead_rounds (addr : Addr) (s : State) : (takeRead addr s).rounds = s.rounds := rfl
@[simp] theorem takeRead_rred (addr : Addr) (s : State) : (takeRead addr s).rred = s.rred := rfl
@[simp] theorem takeRead_rcidx (addr : Addr) (s : State) : (takeRead addr s).rcidx = s.rcidx := rfl
@[simp] theorem takeRead_done (addr : Addr) (s : State) : (takeRead addr s).done = s.done := rfl
@[simp] theorem takeRead_err (addr : Addr) (s : State) : (takeRead addr s).err = s.err := rfl
@[simp] theorem takeRead_ovr (addr : Addr) (s : State) : (takeRead addr s).ovr = s.ovr := rfl
@[simp] theorem takeRead_errcode (addr : Addr) (s : State) : (takeRead addr s).errcode = s.errcode := rfl
@[simp] theorem takeRead_cfgv (addr : Addr) (s : State) : (takeRead addr s).cfgv = s.cfgv := rfl
@[simp] theorem takeRead_perm (addr : Addr) (s : State) : (takeRead addr s).perm = s.perm := rfl
@[simp] theorem takeRead_rc (addr : Addr) (s : State) : (takeRead addr s).rc = s.rc := rfl
@[simp] theorem takeRead_pend (addr : Addr) (s : State) : (takeRead addr s).pend = s.pend := rfl
@[simp] theorem takeRead_port (addr : Addr) (s : State) : (takeRead addr s).port = s.port := rfl
@[simp] theorem takeRead_rdata (addr : Addr) (s : State) : (takeRead addr s).rdata = hostRead addr s := rfl
@[simp] theorem takeRead_freeCount (addr : Addr) (s : State) : (takeRead addr s).freeCount = s.freeCount + 1 := rfl

/-! An edge before the completion edge (R234). -/

@[simp] theorem countDown_width (q : Pending) (s : State) : (countDown q s).width = s.width := rfl
@[simp] theorem countDown_a (q : Pending) (s : State) : (countDown q s).a = s.a := rfl
@[simp] theorem countDown_b (q : Pending) (s : State) : (countDown q s).b = s.b := rfl
@[simp] theorem countDown_k (q : Pending) (s : State) : (countDown q s).k = s.k := rfl
@[simp] theorem countDown_r (q : Pending) (s : State) : (countDown q s).r = s.r := rfl
@[simp] theorem countDown_e (q : Pending) (s : State) : (countDown q s).e = s.e := rfl
@[simp] theorem countDown_d (q : Pending) (s : State) : (countDown q s).d = s.d := rfl
@[simp] theorem countDown_rounds (q : Pending) (s : State) : (countDown q s).rounds = s.rounds := rfl
@[simp] theorem countDown_rred (q : Pending) (s : State) : (countDown q s).rred = s.rred := rfl
@[simp] theorem countDown_rcidx (q : Pending) (s : State) : (countDown q s).rcidx = s.rcidx := rfl
@[simp] theorem countDown_done (q : Pending) (s : State) : (countDown q s).done = s.done := rfl
@[simp] theorem countDown_err (q : Pending) (s : State) : (countDown q s).err = s.err := rfl
@[simp] theorem countDown_ovr (q : Pending) (s : State) : (countDown q s).ovr = s.ovr := rfl
@[simp] theorem countDown_errcode (q : Pending) (s : State) : (countDown q s).errcode = s.errcode := rfl
@[simp] theorem countDown_cfgv (q : Pending) (s : State) : (countDown q s).cfgv = s.cfgv := rfl
@[simp] theorem countDown_perm (q : Pending) (s : State) : (countDown q s).perm = s.perm := rfl
@[simp] theorem countDown_rc (q : Pending) (s : State) : (countDown q s).rc = s.rc := rfl
@[simp] theorem countDown_pend (q : Pending) (s : State) : (countDown q s).pend = some ⟨q.word, q.cyclesLeft - 1⟩ := rfl
@[simp] theorem countDown_port (q : Pending) (s : State) : (countDown q s).port = s.port := rfl
@[simp] theorem countDown_rdata (q : Pending) (s : State) : (countDown q s).rdata = s.rdata := rfl
@[simp] theorem countDown_freeCount (q : Pending) (s : State) : (countDown q s).freeCount = s.freeCount := rfl

/-! BUSY is the pending command (R34). -/

@[simp] theorem busy_eq (s : State) : s.busy = s.pend.isSome := rfl

/-! Reset takes every field of the unit to its reset value (R230) and keeps the model's own three. -/

@[simp] theorem resetEdge_width (s : State) : (resetEdge s).width = 0 := rfl
@[simp] theorem resetEdge_a (s : State) : (resetEdge s).a = 0 := rfl
@[simp] theorem resetEdge_b (s : State) : (resetEdge s).b = 0 := rfl
@[simp] theorem resetEdge_k (s : State) : (resetEdge s).k = 0 := rfl
@[simp] theorem resetEdge_r (s : State) : (resetEdge s).r = 0 := rfl
@[simp] theorem resetEdge_e (s : State) : (resetEdge s).e = 0 := rfl
@[simp] theorem resetEdge_d (s : State) : (resetEdge s).d = 0 := rfl
@[simp] theorem resetEdge_rounds (s : State) : (resetEdge s).rounds = 0 := rfl
@[simp] theorem resetEdge_rred (s : State) : (resetEdge s).rred = 0 := rfl
@[simp] theorem resetEdge_rcidx (s : State) : (resetEdge s).rcidx = 0 := rfl
@[simp] theorem resetEdge_done (s : State) : (resetEdge s).done = false := rfl
@[simp] theorem resetEdge_err (s : State) : (resetEdge s).err = false := rfl
@[simp] theorem resetEdge_ovr (s : State) : (resetEdge s).ovr = false := rfl
@[simp] theorem resetEdge_errcode (s : State) : (resetEdge s).errcode = .none := rfl
@[simp] theorem resetEdge_cfgv (s : State) : (resetEdge s).cfgv = false := rfl
@[simp] theorem resetEdge_perm (s : State) : (resetEdge s).perm = false := rfl
@[simp] theorem resetEdge_rc (s : State) : (resetEdge s).rc = [] := rfl
@[simp] theorem resetEdge_pend (s : State) : (resetEdge s).pend = none := rfl
@[simp] theorem resetEdge_port (s : State) : (resetEdge s).port = s.port := rfl
@[simp] theorem resetEdge_rdata (s : State) : (resetEdge s).rdata = s.rdata := rfl
@[simp] theorem resetEdge_freeCount (s : State) : (resetEdge s).freeCount = s.freeCount := rfl

end Sys2Proof.Machine
end

