-- ==== Sys2Proof/Laws/Memory.lean ====
section
/-! SUPPORT. Laws of RC's list: read after write, and the canonical form. -/

namespace Sys2Proof.Laws

open Sys2Proof.Machine

/-- Reading after a write: the written entry has the value written, every other entry is as before. -/
theorem lookup_insert (m : Memory) (i j : Nat) (v : Nat) :
    Memory.lookup (Memory.insert m i v) j = if j = i then some v else Memory.lookup m j := by
  induction m with
  | nil => simp [Memory.insert, Memory.lookup]
  | cons c m ih =>
    obtain ⟨k, u⟩ := c
    unfold Memory.insert
    split
    · simp [Memory.lookup]
    · split
      · rename_i hik
        subst hik
        simp only [Memory.lookup]
        split <;> rfl
      · simp only [Memory.lookup, ih]
        split <;> split <;> simp_all

/-- R32: "Entry 0 is hardwired to 0". -/
@[simp] theorem read_zero (m : Memory) : Memory.read m 0 = some 0 := rfl

theorem read_pos {i : Nat} (h : 1 ≤ i) (m : Memory) : Memory.read m i = Memory.lookup m i := by
  simp [Memory.read, Nat.ne_of_gt h]

/-- A write to an entry of RC, seen through the read of one entry. -/
theorem read_insert {i : Nat} (h : 1 ≤ i) (m : Memory) (j : Nat) (v : Nat) :
    Memory.read (Memory.insert m i v) j = if j = i then some v else Memory.read m j := by
  unfold Memory.read
  rw [lookup_insert]
  split <;> split <;> first | rfl | omega

theorem rising_insert {low : Nat} {m : Memory} (hm : Memory.rising low m = true) {i : Nat} (hi : low < i)
    (v : Nat) : Memory.rising low (Memory.insert m i v) = true := by
  induction m generalizing low with
  | nil => simp [Memory.insert, Memory.rising, hi]
  | cons c m ih =>
    obtain ⟨k, u⟩ := c
    simp only [Memory.rising, Bool.and_eq_true, decide_eq_true_eq] at hm
    unfold Memory.insert
    split
    · rename_i hik
      simp [Memory.rising, hi, hik, hm.2]
    · split
      · rename_i hik
        subst hik
        simp [Memory.rising, hi, hm.2]
      · simp only [Memory.rising, Bool.and_eq_true, decide_eq_true_eq]
        exact ⟨hm.1, ih hm.2 (by omega)⟩

theorem all_insert {m : Memory} {f : Nat × Nat → Bool} (hm : m.all f = true) {i : Nat} {v : Nat}
    (hv : f (i, v) = true) : (Memory.insert m i v).all f = true := by
  induction m with
  | nil => simp [Memory.insert, hv]
  | cons c m ih =>
    obtain ⟨k, u⟩ := c
    simp only [List.all_cons, Bool.and_eq_true] at hm
    unfold Memory.insert
    split
    · simp [hv, hm.1, hm.2]
    · split
      · simp [hv, hm.2]
      · simp [hm.1, ih hm.2]

/-- Every write to RC keeps its canonical form. -/
theorem insert_keeps_wf {m : Memory} (hm : Memory.wf m = true) {i : Nat} (h1 : 1 ≤ i) (h2 : i < Config.RMAX)
    {v : Nat} (hv : v < 2 ^ Config.NMAX) : Memory.wf (Memory.insert m i v) = true := by
  simp only [Memory.wf, Bool.and_eq_true] at hm ⊢
  exact ⟨rising_insert hm.1 h1 v, all_insert hm.2 (by simp [h2, fits_iff, hv])⟩

theorem reset_memory_wf : Memory.wf State.reset.rc = true := rfl

/-- The host's write through RCDATA keeps the canonical form. -/
theorem rcWrite_keeps_wf {s : State} (h : Memory.wf s.rc = true) (v : Nat) : Memory.wf (rcWrite v s).rc = true := by
  unfold rcWrite
  split
  · rename_i hr
    exact insert_keeps_wf h hr.1 hr.2 (trunc_lt _ _)
  · exact h

/-- A value that a listed entry holds is an NMAX-bit value. -/
theorem lookup_lt {m : Memory} (h : Memory.wf m = true) {i : Nat} {v : Nat} (hl : Memory.lookup m i = some v) :
    i < Config.RMAX ∧ v < 2 ^ Config.NMAX := by
  simp only [Memory.wf, Bool.and_eq_true] at h
  have hall := h.2
  clear h
  induction m with
  | nil => cases hl
  | cons c m ih =>
    obtain ⟨k, u⟩ := c
    simp only [List.all_cons, Bool.and_eq_true, decide_eq_true_eq, fits_iff] at hall
    simp only [Memory.lookup] at hl
    split at hl
    · rename_i hik
      subst hik
      cases hl
      exact hall.1
    · exact ih hl hall.2

end Sys2Proof.Laws
end

