-- ==== Sys2Proof/Laws/Ops.lean ====
section
/-! SUPPORT. One lemma for each shared operation, saying all it can do. -/

namespace Sys2Proof.Laws

open Sys2Proof.Machine

/-- `raise Error(c)` answers a next state, the error's. -/
theorem raiseError_eq (c : ErrCode) (s : State) : raiseError c s = .next (s.finishError c) := rfl

theorem configFail_eq (c : ErrCode) (s : State) : configFail c s = .next (s.clearCfgv.finishError c) := rfl

theorem widthInRange_iff (n : Nat) : widthInRange n = true ↔ 1 ≤ n ∧ n ≤ Config.NMAX := by
  simp [widthInRange]

theorem withWidth_inside {s : State} (h1 : 1 ≤ s.width) (h2 : s.width ≤ Config.NMAX) (rule : Nat → Result) :
    withWidth s rule = rule s.width := by
  simp [withWidth, widthInRange, h1, h2]

theorem withWidth_outside {s : State} (h : s.width = 0 ∨ Config.NMAX < s.width) (rule : Nat → Result) :
    withWidth s rule = .next (s.finishError .unsupportedWidth) := by
  have : widthInRange s.width = false := by
    rw [← Bool.not_eq_true, widthInRange_iff]
    omega
  simp [withWidth, this, raiseError]

theorem withTable_some {n p : Nat} (h : Config.IRRED n = some p) (s : State) (rule : Nat → Result) :
    withTable n s rule = rule p := by
  simp [withTable, h]

theorem withTable_none {n : Nat} (h : Config.IRRED n = none) (s : State) (rule : Nat → Result) :
    withTable n s rule = .next (s.finishError .unsupportedWidth) := by
  simp [withTable, h, raiseError]

/-- A command checked for width only: the error, or its rule. -/
theorem withWidth_cases (s : State) (rule : Nat → Result) :
    (1 ≤ s.width ∧ s.width ≤ Config.NMAX ∧ withWidth s rule = rule s.width) ∨
    ((s.width = 0 ∨ Config.NMAX < s.width) ∧ withWidth s rule = .next (s.finishError .unsupportedWidth)) := by
  by_cases h : 1 ≤ s.width ∧ s.width ≤ Config.NMAX
  · exact .inl ⟨h.1, h.2, withWidth_inside h.1 h.2 rule⟩
  · have h' : s.width = 0 ∨ Config.NMAX < s.width := by omega
    exact .inr ⟨h', withWidth_outside h' rule⟩

/-- The table check: the error, or the rule with P. -/
theorem withTable_cases (n : Nat) (s : State) (rule : Nat → Result) :
    (∃ p, Config.IRRED n = some p ∧ withTable n s rule = rule p) ∨
    (Config.IRRED n = none ∧ withTable n s rule = .next (s.finishError .unsupportedWidth)) := by
  cases h : Config.IRRED n with
  | none => exact .inr ⟨rfl, withTable_none h s rule⟩
  | some p => exact .inl ⟨p, rfl, withTable_some h s rule⟩

/-- All a command that writes R by width alone can do. -/
theorem plainCommand_cases (s : State) (value : Nat → Nat) :
    (1 ≤ s.width ∧ s.width ≤ Config.NMAX ∧ plainCommand s value = .next (s.finishResult (value s.width))) ∨
    ((s.width = 0 ∨ Config.NMAX < s.width) ∧ plainCommand s value = .next (s.finishError .unsupportedWidth)) :=
  withWidth_cases s _

/-- All a command that writes R by the table can do. -/
theorem fieldCommand_cases (s : State) (value : Nat → Nat → Nat) :
    (∃ p, 1 ≤ s.width ∧ s.width ≤ Config.NMAX ∧ Config.IRRED s.width = some p ∧
      fieldCommand s value = .next (s.finishResult (value s.width p))) ∨
    ((s.width = 0 ∨ Config.NMAX < s.width ∨ Config.IRRED s.width = none) ∧
      fieldCommand s value = .next (s.finishError .unsupportedWidth)) := by
  unfold fieldCommand
  rcases withWidth_cases s (fun n => withTable n s fun p => .next (s.finishResult (value n p))) with
    ⟨h1, h2, h⟩ | ⟨h0, h⟩
  · rcases withTable_cases s.width s (fun p => .next (s.finishResult (value s.width p))) with ⟨p, hp, h'⟩ | ⟨hp, h'⟩
    · exact .inl ⟨p, h1, h2, hp, h.trans h'⟩
    · exact .inr ⟨.inr (.inr hp), h.trans h'⟩
  · exact .inr ⟨h0.imp_right .inl, h⟩

/-- All CONFIG can do: fail with a code, or commit a configuration that passed every check (R171). -/
theorem configure_cases (v : Variant) (auto : Bool) (s : State) :
    (∃ c, c ≠ .none ∧ configure v auto s = .next (s.clearCfgv.finishError c)) ∨
    (∃ d, 1 ≤ s.width ∧ s.width ≤ Config.NMAX ∧ ¬(v = .mimc ∧ s.width % 2 = 0) ∧
      2 ≤ effectiveExponent v s ∧ euclid (effectiveExponent v s) (groupOrder s.width) = 1 ∧
      1 ≤ roundCount v auto (effectiveExponent v s) s.width s ∧
      (roundCount v auto (effectiveExponent v s) s.width s).toNat ≤ Config.RMAX ∧
      dexp (effectiveExponent v s) s.width = some d ∧
      configure v auto s = .next (configCommit (effectiveExponent v s)
        (roundCount v auto (effectiveExponent v s) s.width s).toNat d s)) := by
  unfold configure
  simp only [Bool.not_eq_true', configFail_eq]
  split
  · exact .inl ⟨_, by decide, rfl⟩
  · rename_i hw
    rw [Bool.not_eq_false, widthInRange_iff] at hw
    split
    · exact .inl ⟨_, by decide, rfl⟩
    · split
      · exact .inl ⟨_, by decide, rfl⟩
      · split
        · exact .inl ⟨_, by decide, rfl⟩
        · split
          · exact .inl ⟨_, by decide, rfl⟩
          · rename_i hm he hg hr
            split
            · exact .inl ⟨_, by decide, rfl⟩
            · rename_i d hd
              push Not at hr hg he
              exact .inr ⟨d, hw.1, hw.2, hm, he, hg, hr.1, hr.2, hd, rfl⟩

/-- All ENC and DEC can do: an error, the model's fault, or a result. -/
theorem cipherCommand_cases (order : List Nat) (x : Nat) (s : State) :
    (∃ c, c ≠ .none ∧ cipherCommand order x s = .next (s.finishError c)) ∨
    (∃ p, 1 ≤ s.width ∧ s.width ≤ Config.NMAX ∧ s.cfgv = true ∧ Config.IRRED s.width = some p ∧
      ((∃ i, runRounds s.width p s.rc (fe s.width s.k) x order (fe s.width s.a) = .error i ∧
          cipherCommand order x s = .fault (.rcEntryUnwritten i)) ∨
       (∃ st, runRounds s.width p s.rc (fe s.width s.k) x order (fe s.width s.a) = .ok st ∧
          cipherCommand order x s = .next (s.finishResult (st ^^^ fe s.width s.k))))) := by
  unfold cipherCommand
  rcases withWidth_cases s (cipherRule order x s) with ⟨h1, h2, h⟩ | ⟨_, h⟩
  · rw [h]
    unfold cipherRule
    cases hc : s.cfgv
    · exact .inl ⟨.notConfigured, by decide, rfl⟩
    · cases hp : Config.IRRED s.width with
      | none => exact .inl ⟨.unsupportedWidth, by decide, withTable_none hp s _⟩
      | some p =>
        refine .inr ⟨p, h1, h2, rfl, rfl, ?_⟩
        simp only [if_true, withTable_some hp, cipherResult]
        cases hr : runRounds s.width p s.rc (fe s.width s.k) x order (fe s.width s.a) with
        | error i => exact .inl ⟨i, rfl, rfl⟩
        | ok st => exact .inr ⟨st, rfl, rfl⟩
  · exact .inl ⟨_, by decide, h⟩

/-- The host writes while busy set OVR and nothing else (R100). -/
theorem hostWrite_busy {s : State} (h : s.pend.isSome = true) (addr : Addr) (v : Nat) :
    hostWrite addr v s = s.setOverrun := by
  simp [hostWrite, h]

theorem hostWrite_idle {s : State} (h : s.pend = none) (addr : Addr) (v : Nat) :
    hostWrite addr v s = hostWriteIdle addr (trunc Config.PW v) s := by
  simp [hostWrite, h]

/-- A host write changes neither DONE nor any result: it sets OVR, or it accepts a command, or it leaves STATUS but CFGV
as it is. -/
theorem hostWrite_perm (addr : Addr) (v : Nat) (s : State) : (hostWrite addr v s).perm = s.perm := by
  unfold hostWrite hostWriteIdle rcWrite accept
  split
  · rfl
  · split <;> first | rfl | (split <;> rfl)

@[simp] theorem andThen_next (s : State) (f : State → Result) : andThen (.next s) f = f s := rfl

/-- The transaction part of an edge always answers a next state. -/
theorem txnEdge_next (t : Txn) (s : State) : ∃ s', txnEdge t s = .next s' := by
  cases t with
  | quiet => exact ⟨s, rfl⟩
  | read addr => exact ⟨takeRead addr s, rfl⟩
  | write addr v => exact ⟨hostWrite addr v s, rfl⟩

/-- All one edge can do: reset; or the transaction, followed by the pending command's part of the edge. -/
theorem edge_cases (p : PortIn) (s : State) :
    (p.rst = true ∧ edge p s = .next (resetTxn p.txn s)) ∨
    (p.rst = false ∧ ∃ s', txnEdge p.txn s = .next s' ∧ edge p s = pendingEdge s.pend s') := by
  cases hr : p.rst
  · obtain ⟨s', h⟩ := txnEdge_next p.txn s
    exact .inr ⟨rfl, s', h, by simp [edge, hr, h]⟩
  · exact .inl ⟨rfl, by simp [edge, hr]⟩

/-- The step is the edge with the next port input, quiet when none is listed. -/
theorem step_eq_edge (s : State) :
    step s = edge (s.port.headD ⟨false, .quiet⟩) { s with port := s.port.tail } := by
  unfold step clockEdge
  cases h : s.port with
  | nil =>
    simp only [List.headD_nil, List.tail_nil]
    rw [← h]
  | cons p rest => rfl

end Sys2Proof.Laws
end

