-- ==== Sys2Proof/Laws/PerInstr.lean ====
section
/-! SUPPORT. The family Encodes: the coded form of a well-formed instruction is one that the wires can carry. -/

namespace Sys2Proof.Laws.Encodes

/-- A well-formed instruction's coded form fits its wires: a PW-bit word, or a 6-bit header with PW-bit data. -/
def Statement (i : Instr) : Prop := i.wf = true → (encode i).wf = true

/-- Every word of R87 has at most 7 bits, and PW is at least 17. -/
theorem word_fits {w : Nat} (h : bitLen w ≤ 17) : Coded.wf (.cmd w) = true := by
  simp only [Coded.wf, fits, decide_eq_true_eq]
  exact h.trans (seventeen_le_NMAX.trans NMAX_le_PW)

theorem nop : Statement .nop := fun _ => word_fits (by decide)
theorem add : Statement .add := fun _ => word_fits (by decide)
theorem mul : Statement .mul := fun _ => word_fits (by decide)
theorem pow : Statement .pow := fun _ => word_fits (by decide)
theorem pown : Statement .pown := fun _ => word_fits (by decide)
theorem gcd : Statement .gcd := fun _ => word_fits (by decide)
theorem permchk : Statement .permchk := fun _ => word_fits (by decide)
theorem dexp : Statement .dexp := fun _ => word_fits (by decide)
theorem kadd : Statement .kadd := fun _ => word_fits (by decide)
theorem round : Statement .round := fun _ => word_fits (by decide)
theorem iround : Statement .iround := fun _ => word_fits (by decide)
theorem configGn : Statement .configGn := fun _ => word_fits (by decide)
theorem configMimc : Statement .configMimc := fun _ => word_fits (by decide)
theorem configMimc5 : Statement .configMimc5 := fun _ => word_fits (by decide)
theorem configGnAuto : Statement .configGnAuto := fun _ => word_fits (by decide)
theorem configMimcAuto : Statement .configMimcAuto := fun _ => word_fits (by decide)
theorem configMimc5Auto : Statement .configMimc5Auto := fun _ => word_fits (by decide)
theorem enc : Statement .enc := fun _ => word_fits (by decide)
theorem dec : Statement .dec := fun _ => word_fits (by decide)
theorem illegal (w : Nat) : Statement (.illegal w) := fun h => by
  simp only [Instr.wf, Bool.and_eq_true] at h
  exact h.1
theorem hostwr (addr : Addr) (data : Nat) : Statement (.hostwr addr data) := fun h => by
  have hb : ∀ x : Addr, (BitVec.append (1#1) x).getLsbD 5 = true := by decide
  simp only [Instr.wf] at h
  simp only [encode, Coded.wf, h, hb addr, Bool.true_or, Bool.and_self]
theorem hostrd (addr : Addr) : Statement (.hostrd addr) := fun _ => by
  simp [encode, Coded.wf, fits, bitLen]

end Sys2Proof.Laws.Encodes
end

