-- ==== Sys2Proof/Tests/Slice0.lean ====
section
/-! SUPPORT. Tests: the words of the encoding tables, the well-formedness smoke, worked examples of the spec
(95_test_vectors.md, and the Example lines of the rules), and for each statement with hypotheses a witness that they can
be met. Expected values are the spec's own or written out by hand from its tables. -/

namespace Sys2Proof.Tests

open Sys2Proof.Machine

/-- One field of the next state, if there is one. -/
def after {α : Type} (o : Result) (f : State → α) : Option α :=
  match o with
  | .next s => some (f s)
  | .fault _ => none
  | .refused _ => none

/-- The fault of an outcome, if it is one. -/
def faultOf (o : Result) : Option Fault :=
  match o with
  | .fault x => some x
  | .next _ => none
  | .refused _ => none

/-- After reset, with WIDTH = n. -/
def atWidth (n : Nat) : State := { State.reset with width := n }

/-- Width 5 with operands (95_test_vectors.md). -/
def five (a b k e d : Nat) : State := { atWidth 5 with a := a, b := b, k := k, e := e, d := d }

/-- The held configuration of S1 and S2: width 5, RC = [0, 5, 22, 16], ROUNDS = 4, E = 3, D = 21. -/
def heldS1 (a k : Nat) : State :=
  { five a 0 k 3 21 with rounds := 4, rc := [(1, 5), (2, 22), (3, 16)], cfgv := true, done := true }

/-- The word 0x02 (MUL) pending, with `c` cycles left. -/
def busyMul (c : Nat) : State := { five 0x10 2 0 0 0 with pend := some ⟨2, c⟩ }

/-! ## Decoding: one word for each row, written out from R81 to R88 -/

theorem test_decode_nop : decodeCmd 0b00000000000000000 = .nop := by decide
theorem test_decode_add : decodeCmd 0b00000000000000001 = .add := by decide
theorem test_decode_mul : decodeCmd 0b00000000000000010 = .mul := by decide
theorem test_decode_pow : decodeCmd 0b00000000000000011 = .pow := by decide
theorem test_decode_pown : decodeCmd 0b00000000000000100 = .pown := by decide
theorem test_decode_gcd : decodeCmd 0b00000000000000101 = .gcd := by decide
theorem test_decode_permchk : decodeCmd 0b00000000000000110 = .permchk := by decide
theorem test_decode_dexp : decodeCmd 0b00000000000000111 = .dexp := by decide
theorem test_decode_kadd : decodeCmd 0b00000000000001000 = .kadd := by decide
theorem test_decode_round : decodeCmd 0b00000000000001001 = .round := by decide
theorem test_decode_iround : decodeCmd 0b00000000000001010 = .iround := by decide
theorem test_decode_configGn : decodeCmd 0b00000000000001011 = .configGn := by decide
theorem test_decode_configMimc : decodeCmd 0b00000000000011011 = .configMimc := by decide
theorem test_decode_configMimc5 : decodeCmd 0b00000000000101011 = .configMimc5 := by decide
theorem test_decode_configGnAuto : decodeCmd 0b00000000001001011 = .configGnAuto := by decide
theorem test_decode_configMimcAuto : decodeCmd 0b00000000001011011 = .configMimcAuto := by decide
theorem test_decode_configMimc5Auto : decodeCmd 0b00000000001101011 = .configMimc5Auto := by decide
theorem test_decode_enc : decodeCmd 0b00000000000001100 = .enc := by decide
theorem test_decode_dec : decodeCmd 0b00000000000001101 = .dec := by decide
/-- The words of 95_test_vectors.md section 3.6. -/
theorem test_decode_illegal :
    [0x0E, 0x0F, 0x80, 0x41, 0x10, 0x12, 0x3B].all (fun w => decodeCmd w == .illegal w) = true := by decide
/-- P1 line 8: `WR E, 0x1e` is `100111` with data 0x0001E. -/
theorem test_decode_hostwr : decode (.port 0b100111#6 0x0001E) = .ok (.hostwr 7#5 30) := by decide
/-- P1 line 6: `RD R` is `000110`. -/
theorem test_decode_hostrd : decode (.port 0b000110#6 0) = .ok (.hostrd 6#5) := by decide
/-- A word with a bit at PW is rejected by name. -/
theorem test_decode_reject : decode (.cmd (2 ^ Config.PW)) = .error (.commandTooWide (2 ^ Config.PW)) := by
  simp [decode, Laws.fits_iff]
theorem test_table_rows : decodeTableWord 24 0x0000D = some .dec ∧ decodeTableWord 8 0x20 = some (.hostwr 0#5 0) ∧
    decodeTableWord 8 0x05 = some (.hostrd 5#5) := by decide

/-! ## Well-formedness: an ill-formed term for each check -/

theorem test_wf_refuses_legal_word : (Instr.illegal 0x1B).wf = false := by decide
theorem test_wf_refuses_wide_word : (Instr.illegal (2 ^ Config.PW)).wf = false := by
  simp [Instr.wf, ← Bool.not_eq_true, Laws.fits_iff]
theorem test_wf_refuses_wide_data : (Instr.hostwr 3#5 (2 ^ Config.PW)).wf = false := by
  simp [Instr.wf, ← Bool.not_eq_true, Laws.fits_iff]
theorem test_wf_accepts : (Instr.illegal 0x3B).wf = true ∧ (Instr.hostwr 3#5 0x1FFFF).wf = true := by decide
theorem test_memory_wf_refuses_unsorted : Memory.wf [(2, 1), (1, 1)] = false := by decide
theorem test_memory_wf_refuses_entry_zero : Memory.wf [(0, 1)] = false := by decide

/-! ## Host access -/

/-- R105's example: `WR CMD, 0x02` makes STATUS bits 7 to 0 read 0x01, and CFGV keeps its value. -/
theorem test_accept : after (exec (.hostwr 0#5 2) (heldS1 0 0)) (fun t => t.statusWord) = some 0x101 := by decide
/-- H9: WR RCDATA with RCIDX = 1. -/
theorem test_rcdata_write :
    after (exec (.hostwr 0x0C#5 0x1FFFF) { heldS1 0 0 with rcidx := 1 }) (fun t => (Memory.read t.rc 1, t.cfgv)) =
      some (some 0x1FFFF, false) := by decide
/-- H7: RCIDX = 0 is ignored and CFGV stays. -/
theorem test_rcdata_entry_zero :
    after (exec (.hostwr 0x0C#5 7) (heldS1 0 0)) (fun t => (hostRead 0x0C#5 t, t.cfgv)) = some (0, true) := by decide
/-- R102's example: after a successful CONFIG, RD STATUS returns 0x102. -/
theorem test_status_read : after (exec (.hostrd 1#5) (heldS1 0 0)) (fun t => t.rdata) = some 0x102 := by decide
/-- R104's example: after LDRC 3, 16, RCDATA reads 16. -/
theorem test_rcdata_read : hostRead 0x0C#5 { heldS1 0 0 with rcidx := 3 } = 16 := by decide
/-- R106's example: after a failed command with STATUS = 0x46, CALL NOP leaves 0x02. -/
theorem test_nop :
    after (exec .nop (accept 0 { State.reset with done := true, err := true, errcode := .cfgEvenWidth }))
      (fun t => t.statusWord) = some 0x02 := by decide
/-- 3.6: word 0x12 with CFGV = 1 gives 0x116. -/
theorem test_illegal : after (exec (decodeCmd 0x12) (heldS1 0 0)) (fun t => t.statusWord) = some 0x116 := by decide

/-! ## Commands -/

theorem test_add : after (exec .add (five 0x0F 0x1D 0 0 0)) (fun t => t.r) = some 0x12 := by decide
theorem test_kadd_ignores_bit5 : after (exec .kadd (five 0x3F 0 0 0 0)) (fun t => t.r) = some 0x1F := by decide
theorem test_mul : after (exec .mul (five 0x10 0x10 0 0 0)) (fun t => t.r) = some 0x0D := by decide
theorem test_mul_width17 :
    after (exec .mul { atWidth 17 with a := 0x1FFFF, b := 0x1FFFF }) (fun t => t.r) = some 0x0AABD := by decide +kernel
theorem test_pow : after (exec .pow (five 7 0 0 30 0)) (fun t => t.r) = some 0x0C := by decide +kernel
theorem test_pow_whole_exponent : after (exec .pow (five 3 0 0 131071 0)) (fun t => t.r) = some 0x0F := by
  decide +kernel
theorem test_pown : after (exec .pown (five 7 0 0 3 0)) (fun t => t.r) = some 4 := by decide +kernel
theorem test_pown_zero : after (exec .pown (five 0 0 0 0 0)) (fun t => t.r) = some 1 := by decide
theorem test_gcd : after (exec .gcd (five 30 25 0 0 0)) (fun t => t.r) = some 5 := by decide
/-- H4: fe(0x3F) = 31. -/
theorem test_gcd_truncates : after (exec .gcd (five 0x3F 0x12 0 0 0)) (fun t => t.r) = some 1 := by decide
theorem test_permchk : after (exec .permchk (five 0 0 0 62 0)) (fun t => (t.r, t.perm, t.err)) = some (31, false, false) := by
  decide
/-- C2: e = 0, n = 1. -/
theorem test_permchk_width_one : after (exec .permchk (atWidth 1)) (fun t => (t.r, t.perm)) = some (1, true) := by decide
theorem test_dexp : after (exec .dexp (five 0 0 0 33 0)) (fun t => t.d) = some 16 := by decide +kernel
/-- C1: e = 1 gives NO_DEXP with D unchanged. -/
theorem test_dexp_none : after (exec .dexp (five 0 0 0 1 9)) (fun t => (t.statusWord, t.d)) = some (0x086, 9) := by decide
theorem test_round : after (exec .round (five 15 5 29 3 0)) (fun t => t.r) = some 27 := by decide +kernel
theorem test_iround : after (exec .iround (five 27 0 0 0 21)) (fun t => t.r) = some 23 := by decide +kernel
theorem test_iround_reset_d : after (exec .iround (five 27 0 0 0 0)) (fun t => t.r) = some 1 := by decide +kernel

/-! ## CONFIG, ENC, DEC (95_test_vectors.md 3.5, S1, S2) -/

/-- STATUS, E, ROUNDS and D after a command. -/
def configured (i : Instr) (s : State) : Option (Nat × Nat × Nat × Nat) :=
  after (exec i s) fun t => (t.statusWord, t.e, t.rounds, t.d)

theorem test_configGn : configured .configGn { five 0 0 0 3 0 with rounds := 17 } = some (0x102, 3, 17, 21) := by
  decide +kernel
theorem test_configGn_exponent : configured .configGn { five 0 0 0 1 0 with rounds := 2 } = some (0x056, 1, 2, 0) := by
  decide +kernel
theorem test_configMimc : configured .configMimc { atWidth 5 with rounds := 4 } = some (0x102, 3, 4, 21) := by
  decide +kernel
theorem test_configMimc_even : configured .configMimc { atWidth 4 with rounds := 2 } = some (0x046, 0, 2, 0) := by
  decide +kernel
theorem test_configMimc5 : configured .configMimc5 { atWidth 5 with rounds := 3 } = some (0x102, 5, 3, 25) := by
  decide +kernel
theorem test_configMimc5_not_perm : configured .configMimc5 { atWidth 4 with rounds := 2 } = some (0x036, 0, 2, 0) := by
  decide +kernel
theorem test_configGnAuto : configured .configGnAuto { five 0 0 0 3 0 with rred := 3 } = some (0x102, 3, 1, 21) := by
  decide +kernel
theorem test_configGnAuto_reduced_away :
    configured .configGnAuto { five 0 0 0 3 0 with rred := 4 } = some (0x066, 3, 0, 0) := by decide +kernel
theorem test_configMimcAuto : configured .configMimcAuto { atWidth 17 with rred := 5 } = some (0x102, 3, 11, 87381) := by
  decide +kernel
theorem test_configMimc5Auto : configured .configMimc5Auto { atWidth 5 with rred := 2 } = some (0x102, 5, 3, 25) := by
  decide +kernel
theorem test_enc : after (exec .enc (heldS1 15 29)) (fun t => t.r) = some 7 := by decide +kernel
/-- R186: with RC[3] never written, ENC is the model's fault. -/
theorem test_enc_unwritten :
    faultOf (exec .enc { heldS1 15 29 with rc := [(1, 5), (2, 22)] }) = some (.rcEntryUnwritten 3) := by decide +kernel
theorem test_dec : after (exec .dec (heldS1 7 29)) (fun t => t.r) = some 15 := by decide +kernel
/-- 3.6: word 0x0C at width 16 from reset reports NOT_CONFIGURED. -/
theorem test_dec_not_configured : after (exec .dec (atWidth 16)) (fun t => t.statusWord) = some 0x076 := by decide

/-! ## The clock edge -/

/-- T2: a write on the completion edge is dropped, OVR = 1, and the completion writes its result. -/
theorem test_step_same_edge :
    after (step { busyMul 1 with port := [⟨false, .write 3#5 9⟩] }) (fun t => (t.a, t.r, t.statusWord)) =
      some (0x10, 5, 0x00A) := by decide
/-- T1: reset while busy. -/
theorem test_step_reset :
    after (step { busyMul 3 with port := [⟨true, .write 3#5 9⟩] }) (fun t => (t.a, t.r, t.statusWord)) =
      some (0, 0, 0) := by decide
/-- A placed command is what the next step runs, as the first thing after reset. -/
theorem test_step_placed :
    after (step (State.reset.withFetchWord 24 0x00002)) (fun t => t.statusWord) = some 0x026 := by decide
theorem test_step_placed_write :
    after (step (State.reset.withFetchWord 8 0x20)) (fun t => (t.busy, t.pend.map (·.word))) = some (true, some 0) := by
  decide
/-- R11's example and S7. -/
theorem test_codec : toDecimal [true, true, false, true, false, true] = 53 ∧
    toBinary 53 5 = [true, false, true, false, true] := by decide

/-! ## Witnesses: the hypotheses of each statement can be met together -/

theorem width_five_ok : 1 ≤ 5 ∧ 5 ≤ Config.NMAX := by decide

theorem witness_PolynomialTableIsIrreducible : Config.IRRED 17 = some 0x20009 := by decide
theorem witness_PolymodIsTheRemainder : polymod 0x100 0x25 = 0x0D ∧ 1 ≤ 0x25 := by decide
theorem witness_EuclidComputesGcd : euclid 12 18 = 6 ∧ 18 ≠ 0 := by decide
theorem witness_CodecRoundTrips : 0 < [true, false].length ∧ 1 < [true, false].length := by decide
theorem witness_DexpFindsTheSmallest : dexp 3 5 = some 21 ∧ dexp 62 5 = none := by decide +kernel
theorem witness_DexpDefinedAndBounded : 1 ≤ 1 ∧ dexp 2 1 = some 1 ∧ dexp 3 17 = some 87381 := by decide +kernel
theorem witness_DerivedRoundCountIsSmallest : 2 ≤ 3 ∧ 1 ≤ 5 ∧ 1 ≤ 3 ∧ 3 < deriveRounds 3 5 ∧ 2 ^ 5 ≤ 33 := by decide
theorem witness_FieldMultiplicationRingLaws :
    1 ≤ 5 ∧ 2 ^ 5 ≤ 0x25 ∧ 0x25 < 2 ^ (5 + 1) ∧ 0x1F < 2 ^ 5 ∧ 0x1A < 2 ^ 5 ∧ 0 < 2 ^ 5 := by decide
theorem witness_FieldClosure : Config.IRRED 5 = some 0x25 ∧ 0x1F < 2 ^ 5 ∧ 0x1F ≠ 0 ∧ 1 ≤ 31 := by decide
theorem witness_DecryptionExponentInverts :
    Config.IRRED 5 = some 0x25 ∧ dexp 3 5 = some 21 ∧ 0x1F < 2 ^ 5 := by decide +kernel
theorem witness_DecodeOfEncode : (Instr.illegal 0x80).wf = true ∧ (Instr.hostwr 31#5 0).wf = true := by decide
theorem witness_EncodeOfDecode : (Coded.cmd 0x6B).wf = true ∧ (Coded.port 0b011111#6 0).wf = true ∧
    (Coded.port 0b111111#6 0x1FFFF).wf = true := by decide

/-- An idle unit and a busy one. -/
theorem witness_idle_and_busy : (heldS1 0 0).pend = none ∧ (busyMul 3).pend.isSome = true := by decide

theorem witness_WriteWhileBusyIsDropped : (busyMul 1).pend.isSome = true := by decide
theorem witness_WriteToCmdAccepts : (heldS1 0 0).pend = none ∧ 0x1B < 2 ^ Config.PW := by
  exact ⟨by decide, (Laws.fits_iff _ _).1 (by decide)⟩
theorem witness_WriteToRegisters : (heldS1 0 0).pend = none ∧ 0x1FFFF < 2 ^ Config.PW :=
  ⟨by decide, (Laws.fits_iff _ _).1 (by decide)⟩
theorem witness_ReservedAndReadOnlyAddresses :
    (heldS1 0 0).pend = none ∧ 13 ≤ (0x0D#5).toNat ∧ 13 ≤ (0x1F#5).toNat ∧ (busyMul 2).pend.isSome = true := by decide
theorem witness_WriteThroughRcdata :
    (heldS1 0 0).pend = none ∧ 7 < 2 ^ Config.PW ∧ (heldS1 0 0).rcidx = 0 ∧ 1 ≤ 16 ∧ 16 < Config.RMAX ∧
      Config.RMAX ≤ Config.RMAX :=
  ⟨by decide, (Laws.fits_iff _ _).1 (by decide), by decide, by decide, by decide, Nat.le_refl _⟩
/-- Each clause of the RCDATA read: entry 0, an index at RMAX, a written entry, one never written. -/
theorem witness_HostReadReturns :
    (heldS1 0 0).rcidx = 0 ∧ Config.RMAX ≤ Config.RMAX ∧ Memory.read (heldS1 0 0).rc 1 = some 5 ∧
      1 < Config.RMAX ∧ Memory.read (heldS1 0 0).rc 16 = none ∧ 16 < Config.RMAX :=
  ⟨by decide, Nat.le_refl _, by decide, by decide, by decide, by decide⟩
theorem witness_ReadAfterWriteReturnsValue :
    let s : State := { heldS1 0 0 with rcidx := 2, port := [⟨false, .write 0x0C#5 9⟩, ⟨false, .read 0x0C#5⟩] }
    s.pend = none ∧ 9 < 2 ^ Config.NMAX ∧ 1 ≤ s.rcidx ∧ s.rcidx < Config.RMAX ∧
      s.port = [⟨false, .write 0x0C#5 9⟩, ⟨false, .read 0x0C#5⟩] ∧
      (0x02#5 : Addr) ∈ [0x02#5, 0x03#5, 0x04#5, 0x05#5, 0x07#5, 0x08#5, 0x09#5, 0x0A#5, 0x0B#5] :=
  ⟨rfl, (Laws.fits_iff _ _).1 (by decide), by decide, by decide, rfl, by decide⟩
theorem witness_StepRunsDecodedInstruction :
    decode (.cmd 0x0C) = .ok .enc ∧ 1 ≤ 1 ∧ decode (.port (BitVec.append (1#1) (3#5)) 9) = .ok (.hostwr 3#5 9) ∧
      decode (.port (BitVec.append (0#1) (3#5)) 0) = .ok (.hostrd 3#5) ∧ State.reset.pend = none ∧
      decodeTableWord 8 0x23 = some (.hostwr 3#5 0) ∧ decodeTableWord 24 0x3B = some (.illegal 0x3B) := by decide
theorem witness_WriteOnCompletionEdge :
    let s : State := { busyMul 1 with port := [⟨false, .write 0#5 1⟩] }
    s.pend = some ⟨2, 1⟩ ∧ 1 ≤ 1 ∧ s.port = [⟨false, .write 0#5 1⟩] := ⟨rfl, by decide, rfl⟩
theorem witness_ResultsHoldWhileBusy :
    let s : State := { busyMul 2 with port := [⟨false, .write 8#5 1⟩] }
    s.pend = some ⟨2, 2⟩ ∧ 2 ≤ 2 ∧ s.port.head? = some ⟨false, .write 8#5 1⟩ ∧ s.StatusOk :=
  ⟨rfl, by decide, rfl, by constructor <;> decide⟩
theorem witness_CommandCompletesAfterLatency :
    let s : State := { heldS1 15 29 with port := [⟨false, .write 0#5 0x0C⟩, ⟨false, .write 3#5 9⟩] }
    s.pend = none ∧ 0x0C < 2 ^ Config.PW ∧ s.port = ⟨false, .write 0#5 0x0C⟩ :: [⟨false, .write 3#5 9⟩] ∧
      ∀ p ∈ [(⟨false, .write 3#5 9⟩ : PortIn)], p.rst = false :=
  ⟨rfl, (Laws.fits_iff _ _).1 (by decide), rfl, by decide⟩
theorem witness_ResetEdgeResetsEverything :
    let s : State := { busyMul 1 with port := [⟨true, .write 3#5 9⟩] }
    s.port = [⟨true, .write 3#5 9⟩] := rfl
/-- An accepted command clears DONE, ERR, OVR and ERRCODE of a unit that has them all set. -/
theorem witness_StatusClearedOnlyByAcceptOrReset :
    after (step { State.reset with done := true, err := true, ovr := true, errcode := .noDexp,
                                   port := [⟨false, .write 0#5 0⟩] })
      (fun t => (t.done, t.err, t.ovr, t.errcode)) = some (false, false, false, .none) := by decide
theorem witness_RcChangesOnlyByHostWrite :
    after (step { heldS1 0 0 with rcidx := 1, port := [⟨false, .write 0x0C#5 9⟩] }) (fun t => Memory.read t.rc 1) =
      some (some 9) ∧ Memory.read (heldS1 0 0).rc 1 = some 5 := by decide
theorem witness_CfgvRaisedOnlyByConfig :
    after (step { atWidth 5 with rounds := 4, pend := some ⟨0x1B, 1⟩ }) (fun t => t.cfgv) = some true := by
  decide +kernel
theorem witness_LdrcLoadsEntry :
    let s : State := { heldS1 0 0 with port := ldrc 16 9 ++ [] }
    s.pend = none ∧ 1 ≤ 16 ∧ 16 < Config.RMAX ∧ 16 < 2 ^ Config.PW ∧ 9 < 2 ^ Config.NMAX ∧
      s.port = ldrc 16 9 ++ [] :=
  ⟨rfl, by decide, by decide, (Laws.fits_iff _ _).1 (by decide), (Laws.fits_iff _ _).1 (by decide), rfl⟩
/-- ADD, KADD, GCD and PERMCHK: width 5, and the least and the greatest width. -/
theorem witness_AddAndKaddComplete : 1 ≤ (five 3 5 0 0 0).width ∧ (five 3 5 0 0 0).width ≤ Config.NMAX := by decide
theorem witness_GcdCompletes : 1 ≤ (atWidth 1).width ∧ (atWidth 1).width ≤ Config.NMAX := by decide
theorem witness_PermchkCompletes : 1 ≤ (atWidth 17).width ∧ (atWidth 17).width ≤ Config.NMAX := by decide
/-- MUL, POW, POWN, ROUND and IROUND: width 5 with its entry; the corner cases of MUL at width 1 too. -/
theorem witness_MulCompletesWithDatapathValue :
    1 ≤ (five 3 5 0 0 0).width ∧ (five 3 5 0 0 0).width ≤ Config.NMAX ∧
      Config.IRRED (five 3 5 0 0 0).width = some 0x25 ∧ 1 ≤ 1 ∧ 2 ^ 1 ≤ 3 ∧ 3 < 2 ^ (1 + 1) ∧ 1 < 2 ^ 1 := by decide
theorem witness_MulIsReducedProduct :
    1 ≤ (atWidth 17).width ∧ (atWidth 17).width ≤ Config.NMAX ∧ Config.IRRED (atWidth 17).width = some 0x20009 := by
  decide
theorem witness_PowAndPownComplete :
    1 ≤ (five 7 0 0 30 0).width ∧ (five 7 0 0 30 0).width ≤ Config.NMAX ∧
      Config.IRRED (five 7 0 0 30 0).width = some 0x25 := by decide
theorem witness_RoundAndIroundComplete :
    1 ≤ (five 15 5 29 3 21).width ∧ (five 15 5 29 3 21).width ≤ Config.NMAX ∧
      Config.IRRED (five 15 5 29 3 21).width = some 0x25 := by decide
theorem witness_IroundUndoesRound :
    1 ≤ (five 15 5 29 3 21).width ∧ (five 15 5 29 3 21).width ≤ Config.NMAX ∧
      Config.IRRED (five 15 5 29 3 21).width = some 0x25 ∧
      dexp (five 15 5 29 3 21).e (five 15 5 29 3 21).width = some (five 15 5 29 3 21).d := by decide +kernel
/-- ADD and MUL on two states that agree on the operands below bit 5 and differ above, and in K. -/
theorem witness_FieldResultsDependOnlyOnOperands :
    let s := five 0x30 2 0 3 0
    let t := five 0x10 2 9 3 7
    after (exec .mul s) (fun x => x.r) = some 5 ∧ after (exec .mul t) (fun x => x.r) = some 5 ∧ s.width = t.width ∧
      s.e = t.e ∧ s.a % 2 ^ s.width = t.a % 2 ^ s.width ∧ s.b % 2 ^ s.width = t.b % 2 ^ s.width ∧ s.err = false ∧
      t.err = false ∧ Instr.mul ∈ [Instr.add, .mul, .pow, .pown] := by decide +kernel
theorem witness_DexpCompletes :
    1 ≤ (five 0 0 0 3 0).width ∧ (five 0 0 0 3 0).width ≤ Config.NMAX ∧ 2 ≤ (five 0 0 0 3 0).e ∧
      Nat.gcd (five 0 0 0 3 0).e (2 ^ (five 0 0 0 3 0).width - 1) = 1 := by decide
theorem witness_NoDexpRaisedOnlyByDexp :
    1 ≤ (five 0 0 0 31 0).width ∧ (five 0 0 0 31 0).width ≤ Config.NMAX ∧ dexp 31 5 = none ∧
      Instr.configGn.isCommand = true ∧ Instr.configGn ≠ .dexp ∧
      after (exec .configGn (five 0 0 0 31 0)) (fun t => t.errcode) = some .cfgNotPerm ∧
      (five 0 0 0 31 0).errcode ≠ .noDexp := by decide +kernel
/-- Each of the three variants, at the least and the greatest round count. -/
theorem witness_ConfigSuppliedRoundsCommits :
    let s : State := { five 0 0 0 2 0 with rounds := 1 }
    1 ≤ s.width ∧ s.width ≤ Config.NMAX ∧ 1 ≤ s.rounds ∧ s.rounds ≤ Config.RMAX ∧ Config.RMAX ≤ Config.RMAX ∧
      2 ≤ s.e ∧ Nat.gcd s.e (2 ^ s.width - 1) = 1 ∧ s.width % 2 = 1 ∧ Nat.gcd 5 (2 ^ s.width - 1) = 1 :=
  ⟨by decide, by decide, by decide, by decide, Nat.le_refl _, by decide, by decide, by decide, by decide⟩
/-- r0(2, 5) = 5 less a reduction of 4; r0(3, 5) = 4; r0(5, 5) = 3. -/
theorem witness_ConfigDerivedRoundsCommits :
    let s : State := { five 0 0 0 2 0 with rred := 4 }
    1 ≤ s.width ∧ s.width ≤ Config.NMAX ∧ 2 ≤ s.e ∧ Nat.gcd s.e (2 ^ s.width - 1) = 1 ∧
      (2 ^ s.width ≤ s.e ^ 5 ∧ (∀ q, 1 ≤ q → q < 5 → s.e ^ q < 2 ^ s.width) ∧ s.rred < 5) ∧
      (s.width % 2 = 1 ∧ 2 ^ s.width ≤ 3 ^ 4 ∧ ∀ q, 1 ≤ q → q < 4 → 3 ^ q < 2 ^ s.width) ∧
      (Nat.gcd 5 (2 ^ s.width - 1) = 1 ∧ 2 ^ s.width ≤ 5 ^ 3 ∧ ∀ q, 1 ≤ q → q < 3 → 5 ^ q < 2 ^ s.width) := by
  have below : ∀ (b m : Nat), (∀ q, q < m → 1 ≤ q → b ^ q < 2 ^ 5) → ∀ q, 1 ≤ q → q < m → b ^ q < 2 ^ 5 :=
    fun _ _ h q h1 h2 => h q h2 h1
  exact ⟨by decide, by decide, by decide, by decide, ⟨by decide, below 2 5 (by decide), by decide⟩,
    ⟨by decide, by decide, below 3 4 (by decide)⟩, ⟨by decide, by decide, below 5 3 (by decide)⟩⟩
/-- Width 0, a width above NMAX, an even width for MiMC, an exponent of 1, and one with gcd(3, 15) = 3. -/
theorem witness_ConfigChecksInOrder :
    (atWidth 0).width = 0 ∧ Config.NMAX < (atWidth (Config.NMAX + 1)).width ∧
      (1 ≤ (atWidth 4).width ∧ (atWidth 4).width ≤ Config.NMAX ∧ (atWidth 4).width % 2 = 0) ∧
      (five 0 0 0 1 0).e < 2 ∧ (2 ≤ 3 ∧ Nat.gcd 3 (2 ^ (atWidth 4).width - 1) ≠ 1) :=
  ⟨by decide, Nat.lt_succ_self _, by decide, by decide, by decide⟩
/-- A supplied count of 0, one of RMAX + 1, and a reduction of 4 from r0(3, 5) = 4. -/
theorem witness_ConfigRoundRange :
    let s : State := { five 0 0 0 3 0 with rred := 4 }
    1 ≤ s.width ∧ s.width ≤ Config.NMAX ∧ 2 ≤ s.e ∧ Nat.gcd s.e (2 ^ s.width - 1) = 1 ∧ s.rounds = 0 ∧
      Config.RMAX < ({ s with rounds := Config.RMAX + 1 } : State).rounds ∧ 2 ^ s.width ≤ s.e ^ 4 ∧
      (∀ q, 1 ≤ q → q < 4 → s.e ^ q < 2 ^ s.width) ∧ 4 ≤ s.rred :=
  ⟨by decide, by decide, by decide, by decide, by decide, Nat.lt_succ_self _, by decide,
    fun q h1 h2 => (by decide : ∀ q, q < 4 → 1 ≤ q → 3 ^ q < 2 ^ 5) q h2 h1, by decide⟩
/-- The constants of S1 as a function. -/
def constantsS1 (i : Nat) : Nat := (Memory.read (heldS1 0 0).rc i).getD 0
theorem witness_EncCompletes :
    let s := heldS1 15 29
    1 ≤ s.width ∧ s.width ≤ Config.NMAX ∧ Config.IRRED s.width = some 0x25 ∧ s.cfgv = true ∧
      ∀ i, i < s.rounds → Memory.read s.rc i = some (constantsS1 i) := by
  exact ⟨by decide, by decide, by decide, by decide,
    (by decide : ∀ i, i < 4 → Memory.read (heldS1 15 29).rc i = some (constantsS1 i))⟩
theorem witness_DecCompletes :
    let s := heldS1 7 29
    1 ≤ s.width ∧ s.width ≤ Config.NMAX ∧ Config.IRRED s.width = some 0x25 ∧ s.cfgv = true ∧
      ∀ i, i < s.rounds → Memory.read s.rc i = some (constantsS1 i) := by
  exact ⟨by decide, by decide, by decide, by decide,
    (by decide : ∀ i, i < 4 → Memory.read (heldS1 7 29).rc i = some (constantsS1 i))⟩
/-- The second clause at width 0, the one width certain to have no entry whatever the open table holds within range. -/
theorem witness_CipherPreconditionsInOrder :
    1 ≤ (atWidth 5).width ∧ (atWidth 5).width ≤ Config.NMAX ∧ (atWidth 5).cfgv = false ∧
      ({ atWidth 0 with cfgv := true } : State).cfgv = true ∧ Config.IRRED (atWidth 0).width = none ∧
      Instr.enc ∈ [Instr.enc, .dec] := by decide
theorem witness_UnwrittenConstantFaults :
    let s : State := { heldS1 15 29 with rc := [(1, 5), (2, 22)] }
    1 ≤ s.width ∧ s.width ≤ Config.NMAX ∧ Config.IRRED s.width = some 0x25 ∧ s.cfgv = true ∧ 1 ≤ 3 ∧
      3 < s.rounds ∧ Memory.read s.rc 3 = none := by decide

/-- The state after P2's CONFIG meets the whole invariant. -/
theorem heldS1_inv : (heldS1 15 29).Inv where
  widths := by
    constructor <;> exact (Laws.fits_iff _ _).1 (by decide)
  memory := by decide
  pending := by
    intro q h
    cases h
  status := by
    constructor <;> decide
  config _ := by
    constructor <;> decide +kernel

theorem witness_DecryptOfEncrypt :
    (heldS1 15 29).Inv ∧ (heldS1 15 29).cfgv = true ∧ Config.IRRED (heldS1 15 29).width = some 0x25 ∧
      (heldS1 15 29).ConstantsLoaded :=
  ⟨heldS1_inv, by decide, by decide,
    fun i h1 h2 => (by decide : ∀ i, i < 4 → 1 ≤ i → (Memory.read (heldS1 15 29).rc i).isSome = true) i h2 h1⟩
theorem witness_UnsupportedWidthRaised :
    (atWidth 0).width = 0 ∧ Config.NMAX < (atWidth (Config.NMAX + 1)).width ∧ Config.IRRED (atWidth 0).width = none ∧
      ({ atWidth 0 with cfgv := true } : State).cfgv = true :=
  ⟨by decide, Nat.lt_succ_self _, by decide, by decide⟩
theorem witness_ErrorsArePrecise :
    Instr.configGn.isCommand = true ∧ (heldS1 0 0).err = false ∧
      after (exec .configGn { heldS1 0 0 with e := 1 }) (fun t => (t.err, t.cfgv)) = some (true, false) ∧
      after (exec .add (atWidth 0)) (fun t => t.err) = some true := by decide
theorem witness_CommandsWriteOnlyTheirRegisters :
    Instr.enc.isCommand = true ∧ after (exec .enc (heldS1 15 29)) (fun t => t.rounds) = some 4 := by decide +kernel
theorem witness_StepKeepsInvariant :
    (heldS1 15 29).Inv ∧ after (step (heldS1 15 29)) (fun t => t.cfgv) = some true := ⟨heldS1_inv, by decide⟩

end Sys2Proof.Tests
end

section
/-! SUPPORT. Polynomials over GF(2) as integers (R10, R13), read as Mathlib's polynomials over `ZMod 2`: XOR is the sum,
`clmul` the product, `polymod` the remainder, and R7's divisor test is irreducibility. -/

namespace Sys2Proof.Laws

open Polynomial

theorem testBit_eq_false_of_bitLen_le {v i : Nat} (h : bitLen v ≤ i) : v.testBit i = false :=
  Nat.testBit_eq_false_of_lt ((bitLen_le_iff i v).1 h)

/-- A number that loses its highest bit is one bit shorter. -/
theorem lt_two_pow_of_testBit_eq_false {v m : Nat} (h : v < 2 ^ (m + 1)) (hm : v.testBit m = false) : v < 2 ^ m := by
  refine Nat.lt_pow_two_of_testBit v fun i hi => ?_
  rcases hi.eq_or_lt with rfl | hlt
  · exact hm
  · exact Nat.testBit_eq_false_of_lt (h.trans_le (Nat.pow_le_pow_right (by decide) hlt))

/-- R10: the polynomial over GF(2) that the integer `c` stands for; bit i is the coefficient of x^i. -/
noncomputable def toPoly (c : Nat) : (ZMod 2)[X] :=
  ∑ i ∈ Finset.range (bitLen c), monomial i (if c.testBit i then 1 else 0)

@[simp] theorem coeff_toPoly (c i : Nat) : (toPoly c).coeff i = if c.testBit i then 1 else 0 := by
  by_cases h : i < bitLen c
  · simp [toPoly, coeff_monomial, h]
  · simp [toPoly, coeff_monomial, h, testBit_eq_false_of_bitLen_le (not_lt.1 h)]

theorem toPoly_injective : Function.Injective toPoly := by
  intro a b h
  refine Nat.eq_of_testBit_eq fun i => ?_
  have hi := congrArg (fun P => P.coeff i) h
  cases ha : a.testBit i <;> cases hb : b.testBit i <;> simp [ha, hb] at hi ⊢

@[simp] theorem toPoly_zero : toPoly 0 = 0 := rfl

@[simp] theorem toPoly_eq_zero_iff (c : Nat) : toPoly c = 0 ↔ c = 0 := toPoly_injective.eq_iff' toPoly_zero

@[simp] theorem toPoly_xor (a b : Nat) : toPoly (a ^^^ b) = toPoly a + toPoly b := by
  ext i
  cases ha : a.testBit i <;> cases hb : b.testBit i <;> simp [ha, hb, CharTwo.add_self_eq_zero]

@[simp] theorem toPoly_mul_two_pow (a k : Nat) : toPoly (a * 2 ^ k) = toPoly a * X ^ k := by
  ext i
  rw [coeff_mul_X_pow', coeff_toPoly, Nat.testBit_mul_two_pow]
  by_cases h : k ≤ i <;> simp [h]

@[simp] theorem toPoly_two_pow (k : Nat) : toPoly (2 ^ k) = X ^ k := by
  ext i
  simp [coeff_X_pow, Nat.testBit_two_pow, eq_comm]

/-- Every polynomial over GF(2) is that of an integer. -/
theorem toPoly_surjective : Function.Surjective toPoly := by
  intro P
  induction P using Polynomial.induction_on' with
  | add P Q hP hQ =>
    obtain ⟨a, rfl⟩ := hP
    obtain ⟨b, rfl⟩ := hQ
    exact ⟨a ^^^ b, toPoly_xor a b⟩
  | monomial i x =>
    obtain rfl | rfl : x = 0 ∨ x = 1 := by
      revert x
      decide
    · exact ⟨0, by simp⟩
    · exact ⟨2 ^ i, by simp [X_pow_eq_monomial]⟩

/-- The partial sum of R13 over the bits of `b` below `m` is the product with the part of `b` below bit `m`. -/
theorem toPoly_clmulBelow (a b m : Nat) :
    toPoly (clmulBelow a b m) = toPoly a * ∑ i ∈ Finset.range m, monomial i (if b.testBit i then 1 else 0) := by
  induction m with
  | zero => simp [clmulBelow]
  | succ m ih =>
    rw [clmulBelow, toPoly_xor, ih, Finset.sum_range_succ, mul_add]
    cases b.testBit m <;> simp [X_pow_eq_monomial]

/-- R13: the carry-less product is the product of the polynomials. -/
@[simp] theorem toPoly_clmul (a b : Nat) : toPoly (clmul a b) = toPoly a * toPoly b :=
  toPoly_clmulBelow a b (bitLen b)

theorem natDegree_toPoly (c : Nat) : (toPoly c).natDegree = c.log2 := by
  rcases eq_or_ne c 0 with rfl | hc
  · simp
  · refine natDegree_eq_of_le_of_coeff_ne_zero ?_ (by simp [Nat.testBit_log2 hc])
    refine natDegree_le_iff_coeff_eq_zero.2 fun i hi => ?_
    simp [Nat.testBit_eq_false_of_lt ((Nat.log2_lt hc).1 hi)]

theorem monic_toPoly {c : Nat} (hc : c ≠ 0) : (toPoly c).Monic := by
  simp [Monic, leadingCoeff, natDegree_toPoly, Nat.testBit_log2 hc]

/-! Long division (R13). -/

/-- Each pass of the division takes away a multiple of `p`. -/
theorem dvd_toPoly_sub_polymodLoop (p deg k c : Nat) : toPoly p ∣ toPoly c - toPoly (polymodLoop p deg k c) := by
  induction k generalizing c with
  | zero => simp [polymodLoop]
  | succ k ih =>
    rw [polymodLoop]
    split
    · have hstep : toPoly p ∣ toPoly c - toPoly (c ^^^ p * 2 ^ k) := ⟨-X ^ k, by simp⟩
      simpa only [sub_add_sub_cancel] using dvd_add hstep (ih (c ^^^ p * 2 ^ k))
    · exact ih c

/-- Each pass clears the highest bit left, down to the degree of `p`. -/
theorem polymodLoop_lt {p k c : Nat} (hp : p ≠ 0) (hc : c < 2 ^ (p.log2 + k)) :
    polymodLoop p p.log2 k c < 2 ^ p.log2 := by
  induction k generalizing c with
  | zero => exact hc
  | succ k ih =>
    rw [polymodLoop]
    refine ih (lt_two_pow_of_testBit_eq_false ?_ ?_)
    · have hpk : p * 2 ^ k < 2 ^ (p.log2 + (k + 1)) := by
        calc p * 2 ^ k < 2 ^ (p.log2 + 1) * 2 ^ k := Nat.mul_lt_mul_of_pos_right Nat.lt_log2_self (Nat.two_pow_pos k)
          _ = 2 ^ (p.log2 + (k + 1)) := by ring
      split
      · exact Nat.xor_lt_two_pow hc hpk
      · exact hc
    · split
      next hbit => simp [hbit, Nat.testBit_mul_two_pow, Nat.testBit_log2 hp]
      next hbit => simpa using hbit

theorem polymod_lt (c : Nat) {p : Nat} (hp : p ≠ 0) : polymod c p < 2 ^ p.log2 :=
  polymodLoop_lt hp ((bitLen_le_iff _ c).1 (by omega))

/-- R13: `polymod` is the remainder of polynomial division. -/
theorem toPoly_polymod (c : Nat) {p : Nat} (hp : p ≠ 0) : toPoly (polymod c p) = toPoly c %ₘ toPoly p := by
  obtain ⟨Q, hQ⟩ := dvd_toPoly_sub_polymodLoop p p.log2 (bitLen c - p.log2) c
  have hdeg : degree (toPoly (polymod c p)) < degree (toPoly p) := by
    rw [degree_eq_natDegree (monic_toPoly hp).ne_zero, natDegree_toPoly, degree_lt_iff_coeff_zero]
    intro i hi
    have hbit : (polymod c p).testBit i = false :=
      Nat.testBit_eq_false_of_lt ((polymod_lt c hp).trans_le (Nat.pow_le_pow_right (by decide) hi))
    simp [hbit]
  exact (div_modByMonic_unique Q _ (monic_toPoly hp) ⟨by rw [← hQ]; exact add_sub_cancel _ _, hdeg⟩).2.symm

theorem polymod_eq_zero_iff_dvd (c : Nat) {p : Nat} (hp : p ≠ 0) : polymod c p = 0 ↔ toPoly p ∣ toPoly c := by
  rw [← toPoly_eq_zero_iff, toPoly_polymod c hp, modByMonic_eq_zero_iff_dvd (monic_toPoly hp)]

/-- The quotient that `polymod` leaves out. -/
theorem exists_eq_clmul_xor_polymod (c p : Nat) : ∃ q, c = clmul q p ^^^ polymod c p := by
  obtain ⟨Q, hQ⟩ := dvd_toPoly_sub_polymodLoop p p.log2 (bitLen c - p.log2) c
  obtain ⟨q, rfl⟩ := toPoly_surjective Q
  refine ⟨q, toPoly_injective ?_⟩
  rw [toPoly_xor, toPoly_clmul, mul_comm, ← hQ]
  exact (sub_add_cancel _ _).symm

/-! R7's test. -/

/-- What R7's test computes: the degree, and that no polynomial of degree 1 to n/2 divides. -/
theorem irreducible_iff (n p : Nat) :
    irreducible n p = true ↔ bitLen p = n + 1 ∧ ∀ q, 2 ≤ q → q < 2 ^ (n / 2 + 1) → polymod p q ≠ 0 := by
  simp only [irreducible, Bool.and_eq_true, beq_iff_eq, List.all_eq_true, List.mem_range, Bool.or_eq_true,
    decide_eq_true_eq, bne_iff_ne, and_congr_right_iff]
  exact fun _ => forall_congr' fun q => by omega

/-- A number of n + 1 bits is a polynomial of degree n. -/
theorem log2_of_bitLen_eq_succ {n p : Nat} (h : bitLen p = n + 1) : p ≠ 0 ∧ p.log2 = n := by
  unfold bitLen at h
  split at h <;> omega

/-- R7: an integer that passes the test at a width of 1 or more is an irreducible polynomial. Of two proper factors one has
at most half the degree, and the test has tried it. -/
theorem irreducible_toPoly {n p : Nat} (hn : 1 ≤ n) (h : irreducible n p = true) : Irreducible (toPoly p) := by
  obtain ⟨hlen, htest⟩ := (irreducible_iff n p).1 h
  obtain ⟨hp, hlog⟩ := log2_of_bitLen_eq_succ hlen
  have hone : toPoly p ≠ 1 := by
    intro h1
    have hdeg := natDegree_toPoly p
    rw [h1, natDegree_one] at hdeg
    omega
  refine ((monic_toPoly hp).irreducible_iff_lt_natDegree_lt hone).2 fun Q hQ hdeg hdvd => ?_
  obtain ⟨q, rfl⟩ := toPoly_surjective Q
  rw [natDegree_toPoly, natDegree_toPoly, hlog, Finset.mem_Ioc] at hdeg
  have hq : q ≠ 0 := (toPoly_eq_zero_iff q).not.1 hQ.ne_zero
  have hq2 : 2 ≤ q := by simpa using (Nat.le_log2 (k := 1) hq).1 hdeg.1
  have hqlt : q < 2 ^ (n / 2 + 1) := (Nat.log2_lt hq).1 (Nat.lt_succ_of_le hdeg.2)
  exact htest q hq2 hqlt ((polymod_eq_zero_iff_dvd p hq).2 hdvd)

/-- A polynomial of positive degree is no unit. -/
theorem not_isUnit_toPoly {f : Nat} (hf : 2 ≤ f) : ¬ IsUnit (toPoly f) := by
  intro hu
  have hdeg := natDegree_eq_zero_of_isUnit hu
  rw [natDegree_toPoly] at hdeg
  have hlog : 1 ≤ f.log2 := (Nat.le_log2 (by omega)).2 hf
  omega

/-- R7: every entry of the table is an irreducible polynomial. -/
theorem IRRED_irreducible {n p : Nat} (h : Config.IRRED n = some p) : Irreducible (toPoly p) := by
  obtain ⟨hn, -, hirr⟩ := IRRED_spec h
  exact irreducible_toPoly hn hirr

end Sys2Proof.Laws
end

section
/-! SUPPORT. The codec of R11, bit by bit. -/

namespace Sys2Proof.Laws

@[simp] theorem length_toBinary (v w : Nat) : (toBinary v w).length = w := by
  induction w with
  | zero => rfl
  | succ w ih => simp [toBinary, ih]

/-- Position j of the w-bit sequence is bit w-1-j. -/
theorem getElem_toBinary (v w j : Nat) (h : j < (toBinary v w).length) :
    (toBinary v w)[j] = v.testBit (w - 1 - j) := by
  induction w generalizing j with
  | zero => simp at h
  | succ w ih =>
    cases j with
    | zero => rfl
    | succ j =>
      have hidx : w + 1 - 1 - (j + 1) = w - 1 - j := by omega
      rw [hidx]
      exact ih j _

/-- The bits read so far move up by one place for each bit still to come. -/
theorem foldl_toDecimal (bits : List Bool) (acc : Nat) :
    bits.foldl (fun acc b => 2 * acc + b.toNat) acc = 2 ^ bits.length * acc + toDecimal bits := by
  induction bits generalizing acc with
  | nil => simp [toDecimal]
  | cons b bits ih =>
    rw [toDecimal, List.foldl_cons, List.foldl_cons, ih, ih (2 * 0 + b.toNat), List.length_cons]
    ring

theorem toDecimal_cons (b : Bool) (bits : List Bool) :
    toDecimal (b :: bits) = 2 ^ bits.length * b.toNat + toDecimal bits := by
  rw [toDecimal, List.foldl_cons, foldl_toDecimal, Nat.mul_zero, Nat.zero_add]

theorem toDecimal_lt (bits : List Bool) : toDecimal bits < 2 ^ bits.length := by
  induction bits with
  | nil => decide
  | cons b bits ih =>
    rw [toDecimal_cons, List.length_cons, Nat.pow_succ]
    cases b <;> simp <;> omega

/-- R11: the register value of the w-bit sequence is `v mod 2^w`. -/
theorem toDecimal_toBinary (v w : Nat) : toDecimal (toBinary v w) = v % 2 ^ w := by
  induction w with
  | zero => simp [toBinary, toDecimal, Nat.mod_one]
  | succ w ih => rw [toBinary, toDecimal_cons, ih, length_toBinary, Nat.toNat_testBit, Nat.mod_pow_succ, Nat.add_comm]

/-- R11: "sequence position j is register bit w-1-j". -/
theorem testBit_toDecimal (bits : List Bool) (j : Nat) (h : j < bits.length) :
    (toDecimal bits).testBit (bits.length - 1 - j) = bits[j] := by
  induction bits generalizing j with
  | nil => simp at h
  | cons b bits ih =>
    rw [toDecimal_cons, Nat.testBit_two_pow_mul_add _ (toDecimal_lt bits)]
    cases j with
    | zero => cases b <;> simp
    | succ j =>
      have hj : j < bits.length := by simpa using h
      have hidx : (b :: bits).length - 1 - (j + 1) = bits.length - 1 - j := by simp; omega
      have hlt : bits.length - 1 - j < bits.length := by omega
      rw [hidx, if_pos hlt]
      exact ih j hj

theorem toBinary_toDecimal (bits : List Bool) : toBinary (toDecimal bits) bits.length = bits := by
  refine List.ext_getElem (length_toBinary _ _) fun j h1 h2 => ?_
  rw [getElem_toBinary, testBit_toDecimal bits j h2]

end Sys2Proof.Laws
end

section
/-! The statements on the parameters, the polynomial table, the codec and the remainder (00_scope.md). -/

namespace Sys2Proof.Proofs

open Sys2Proof.Laws

/-- Settles O1, from the form of the parameters' definitions. -/
theorem parametersMeetConstraints : Obligations.ParametersMeetConstraints :=
  ⟨IRRED_five, IRRED_seventeen, seventeen_le_NMAX, NMAX_le_EW, NMAX_le_RMAX, PW_eq_max, LAT_pos⟩

/-- Settles O2: an entry passes R7's test, so its polynomial is irreducible, and a factor of positive degree is
no unit. -/
theorem polynomialTableIsIrreducible : Obligations.PolynomialTableIsIrreducible := by
  intro n p h
  obtain ⟨hn, hmax, -⟩ := IRRED_spec h
  obtain ⟨hge, hlt⟩ := IRRED_degree h
  refine ⟨hn, hmax, Nat.testBit_of_two_pow_le_and_two_pow_add_one_gt hge hlt, fun i hi => ?_,
    fun f g hf hg hfg => ?_⟩
  · exact Nat.testBit_eq_false_of_lt (hlt.trans_le (Nat.pow_le_pow_right (by decide) hi))
  · have hprod : toPoly p = toPoly f * toPoly g := by rw [← hfg, toPoly_clmul]
    exact ((IRRED_irreducible h).isUnit_or_isUnit hprod).elim (not_isUnit_toPoly hf) (not_isUnit_toPoly hg)

/-- Settles O3, from the position laws of both directions of the codec. -/
theorem codecRoundTrips : Obligations.CodecRoundTrips :=
  ⟨fun v w => ⟨toDecimal_toBinary v w, length_toBinary v w⟩, toBinary_toDecimal, testBit_toDecimal, by decide⟩

/-- Settles O4: each pass of the division clears the highest bit and takes away a multiple of p. -/
theorem polymodIsTheRemainder : Obligations.PolymodIsTheRemainder :=
  fun c p hp => ⟨polymod_lt c (Nat.one_le_iff_ne_zero.1 hp), exists_eq_clmul_xor_polymod c p⟩

end Sys2Proof.Proofs
end

section
/-! SUPPORT. The integer functions: the Euclidean loop is the gcd, and the bounds of the values that commands write. -/

namespace Sys2Proof.Laws

/-- R141's loop keeps the gcd, and `q` passes are enough. -/
theorem euclidLoop_eq_gcd {fuel p q : Nat} (h : q ≤ fuel) : euclidLoop fuel p q = Nat.gcd p q := by
  induction fuel generalizing p q with
  | zero =>
    obtain rfl : q = 0 := by omega
    simp [euclidLoop]
  | succ fuel ih =>
    rw [euclidLoop]
    split
    next hq => simp [hq]
    next hq =>
      have hlt : p % q < q := Nat.mod_lt p (by omega)
      rw [ih (by omega), Nat.gcd_comm p q, Nat.gcd_rec q p, Nat.gcd_comm]

theorem euclid_eq_gcd (p q : Nat) : euclid p q = Nat.gcd p q := euclidLoop_eq_gcd (Nat.le_refl q)

/-- The gcd of two values below a bound is below it, both 0 included. -/
theorem euclid_lt {p q m : Nat} (hp : p < m) (hq : q < m) : euclid p q < m := by
  rw [euclid_eq_gcd]
  rcases Nat.eq_zero_or_pos q with rfl | hpos
  · simpa using hp
  · exact (Nat.gcd_le_right p hpos).trans_lt hq

theorem groupOrder_pos {n : Nat} (hn : 1 ≤ n) : 1 ≤ groupOrder n :=
  Nat.le_sub_one_of_lt (Nat.one_lt_two_pow (by omega))

theorem groupOrder_lt (n : Nat) : groupOrder n < 2 ^ n := Nat.sub_one_lt (Nat.two_pow_pos n).ne'

/-- R143's verdict is a divisor of `M_n`, whatever the exponent. -/
theorem euclid_groupOrder_lt (e : Nat) {n : Nat} (hn : 1 ≤ n) : euclid e (groupOrder n) < 2 ^ n := by
  rw [euclid_eq_gcd]
  exact (Nat.gcd_le_right e (groupOrder_pos hn)).trans_lt (groupOrder_lt n)

/-- What R145's search finds is the quotient at a `t` of its range. -/
theorem dexpFrom_some {e m fuel t d : Nat} (h : dexpFrom e m fuel t = some d) :
    ∃ u, t ≤ u ∧ u < t + fuel ∧ (1 + u * m) % e = 0 ∧ d = (1 + u * m) / e := by
  induction fuel generalizing t with
  | zero => cases h
  | succ fuel ih =>
    rw [dexpFrom] at h
    split at h
    next hmod => exact ⟨t, Nat.le_refl t, by omega, hmod, (Option.some.inj h).symm⟩
    next =>
      obtain ⟨u, hle, hlt, hu⟩ := ih h
      exact ⟨u, by omega, by omega, hu⟩

/-- R145: the decryption exponent is at most `M_n`, because `t < e`. -/
theorem dexp_lt {e n d : Nat} (hn : 1 ≤ n) (h : dexp e n = some d) : d < 2 ^ n := by
  obtain ⟨u, hle, hlt, -, rfl⟩ := dexpFrom_some h
  refine lt_of_le_of_lt (Nat.div_le_of_le_mul ?_) (groupOrder_lt n)
  calc 1 + u * groupOrder n ≤ (u + 1) * groupOrder n := by linarith [groupOrder_pos hn]
    _ ≤ e * groupOrder n := Nat.mul_le_mul_right _ (by omega)

/-- R176's search does not pass the end of its range. -/
theorem deriveRoundsFrom_le (e n fuel r : Nat) : deriveRoundsFrom e n fuel r ≤ r + fuel := by
  induction fuel generalizing r with
  | zero => exact Nat.le_refl r
  | succ fuel ih =>
    rw [deriveRoundsFrom]
    split
    · omega
    · exact (ih (r + 1)).trans_eq (by omega)

theorem deriveRounds_le (e n : Nat) : deriveRounds e n ≤ n + 1 :=
  (deriveRoundsFrom_le e n n 1).trans_eq (Nat.add_comm 1 n)

end Sys2Proof.Laws
end

section
/-! SUPPORT. The results of field arithmetic are elements of the field (R129): below 2^n. -/

namespace Sys2Proof.Laws

open Sys2Proof.Machine

/-- The reduction step of R123: the doubled operand loses its bit n to P. -/
theorem gfMul_reduce_lt {n p x : Nat} (hlo : 2 ^ n ≤ p) (hhi : p < 2 ^ (n + 1)) (hx : x < 2 ^ n) :
    (if (x * 2).testBit n then x * 2 ^^^ p else x * 2) < 2 ^ n := by
  have hdouble : x * 2 < 2 ^ (n + 1) := by omega
  split
  next hbit =>
    have hp : p.testBit n = true := Nat.testBit_of_two_pow_le_and_two_pow_add_one_gt hlo hhi
    exact lt_two_pow_of_testBit_eq_false (Nat.xor_lt_two_pow hdouble hhi) (by simp [hbit, hp])
  next hbit => exact lt_two_pow_of_testBit_eq_false hdouble (by simpa using hbit)

theorem gfMulLoop_lt {n p fuel acc x y : Nat} (hlo : 2 ^ n ≤ p) (hhi : p < 2 ^ (n + 1)) (hacc : acc < 2 ^ n)
    (hx : x < 2 ^ n) : gfMulLoop n p fuel acc x y < 2 ^ n := by
  induction fuel generalizing acc x y with
  | zero => exact hacc
  | succ fuel ih =>
    rw [gfMulLoop]
    split
    · exact hacc
    · refine ih ?_ (gfMul_reduce_lt hlo hhi hx)
      split
      · exact Nat.xor_lt_two_pow hacc hx
      · exact hacc

section
variable {n p : Nat} (h : Config.IRRED n = some p)
include h

theorem gfMul_lt {a : Nat} (ha : a < 2 ^ n) (b : Nat) : gfMul n p a b < 2 ^ n := by
  obtain ⟨hlo, hhi⟩ := IRRED_degree h
  exact gfMulLoop_lt hlo hhi (Nat.two_pow_pos n) ha

/-- The product of no factors, 1, is an element of every field of the table. -/
theorem one_lt_two_pow_of_IRRED : 1 < 2 ^ n :=
  Nat.one_lt_two_pow (Nat.one_le_iff_ne_zero.1 (IRRED_spec h).1)

theorem sqMulLoop_lt {fuel res base k : Nat} (hres : res < 2 ^ n) (hbase : base < 2 ^ n) :
    sqMulLoop n p fuel res base k < 2 ^ n := by
  induction fuel generalizing res base k with
  | zero => exact hres
  | succ fuel ih =>
    rw [sqMulLoop]
    split
    · exact hres
    · refine ih ?_ (gfMul_lt h hbase base)
      split
      · exact gfMul_lt h hres base
      · exact hres

theorem powSquare_lt {a : Nat} (ha : a < 2 ^ n) (e : Nat) : powSquare n p a e < 2 ^ n :=
  sqMulLoop_lt h (one_lt_two_pow_of_IRRED h) ha

theorem powNaiveLoop_lt (a e : Nat) {res : Nat} (hres : res < 2 ^ n) : powNaiveLoop n p a e res < 2 ^ n := by
  induction e generalizing res with
  | zero => exact hres
  | succ e ih => exact ih (gfMul_lt h hres a)

theorem powNaive_lt (a e : Nat) : powNaive n p a e < 2 ^ n := powNaiveLoop_lt h a e (one_lt_two_pow_of_IRRED h)

theorem roundPower_lt {st k c : Nat} (hst : st < 2 ^ n) (hk : k < 2 ^ n) (hc : c < 2 ^ n) (x : Nat) :
    roundPower n p st k c x < 2 ^ n :=
  powSquare_lt h (Nat.xor_lt_two_pow (Nat.xor_lt_two_pow hst hk) hc) x

theorem runRounds_lt {rc : Memory} {k x : Nat} {order : List Nat} {st out : Nat} (hk : k < 2 ^ n)
    (hst : st < 2 ^ n) (hrun : runRounds n p rc k x order st = .ok out) : out < 2 ^ n := by
  induction order generalizing st with
  | nil =>
    cases hrun
    exact hst
  | cons i order ih =>
    rw [runRounds] at hrun
    split at hrun
    · cases hrun
    · exact ih (roundPower_lt h hst hk (fe_lt n _) x) hrun

end

end Sys2Proof.Laws
end

section
/-! SUPPORT. The STATUS word (R33), as the sum of its fields. -/

namespace Sys2Proof.Laws

open Sys2Proof.Machine

/-- R41: codes 9 to 15 are never written. -/
theorem code_le_eight (c : ErrCode) : c.code ≤ 8 := by cases c <;> decide

theorem hostRead_status (s : State) : hostRead 0x01#5 s = s.statusWord := rfl

/-- Every field of STATUS is its slice of the word, and there is nothing above bit 9. -/
theorem statusWord_fields (s : State) :
    s.statusWord % 2 = s.pend.isSome.toNat ∧ s.statusWord / 2 % 2 = s.done.toNat ∧
    s.statusWord / 4 % 2 = s.err.toNat ∧ s.statusWord / 8 % 2 = s.ovr.toNat ∧
    s.statusWord / 16 % 16 = s.errcode.code ∧ s.statusWord / 256 % 2 = s.cfgv.toNat ∧
    s.statusWord / 512 % 2 = s.perm.toNat ∧ s.statusWord < 1024 := by
  have hbusy := Bool.toNat_le s.pend.isSome
  have hdone := Bool.toNat_le s.done
  have herr := Bool.toNat_le s.err
  have hovr := Bool.toNat_le s.ovr
  have hcode := code_le_eight s.errcode
  have hcfgv := Bool.toNat_le s.cfgv
  have hperm := Bool.toNat_le s.perm
  simp only [State.statusWord, busy_eq]
  omega

theorem testBit_eq_of_div_mod {v j : Nat} {b : Bool} (h : v / 2 ^ j % 2 = b.toNat) : v.testBit j = b := by
  simp [Nat.testBit_eq_decide_div_mod_eq, h]

end Sys2Proof.Laws
end

section
/-! SUPPORT. All a command can do at its completion edge (R107), once for all of them: with the bound of a result. -/

namespace Sys2Proof.Laws

open Sys2Proof.Machine

/-! The classes of instructions. -/

@[simp] theorem isConfig_configInstr (v : Variant) (auto : Bool) : (configInstr v auto).isConfig = true := by
  cases v <;> cases auto <;> rfl

@[simp] theorem configInstr_ne_permchk (v : Variant) (auto : Bool) : configInstr v auto ≠ .permchk := by
  cases v <;> cases auto <;> nofun

theorem isConfig_of_writesR {i : Instr} (hi : i.writesR = true) : i.isConfig = false := by
  revert hi
  cases i <;> simp [Instr.writesR, Instr.isConfig]

/-- The decoder of command words gives commands only (R88: a transaction is no word). -/
theorem isCommand_decodeOp {op : Nat} {i : Instr} (h : decodeOp op = some i) : i.isCommand = true := by
  unfold decodeOp at h
  split at h <;> cases h <;> rfl

theorem isCommand_decodeConfig {var autor : Nat} {i : Instr} (h : decodeConfig var autor = some i) :
    i.isCommand = true := by
  unfold decodeConfig at h
  split at h <;> cases h <;> rfl

theorem isCommand_decodeCmd (w : Nat) : (decodeCmd w).isCommand = true := by
  unfold decodeCmd
  split
  · rfl
  · split
    · cases h : decodeConfig (cmdVar w) (cmdAutor w) with
      | none => rfl
      | some i => exact isCommand_decodeConfig h
    · split
      · rfl
      · cases h : decodeOp (cmdOp w) with
        | none => rfl
        | some i => exact isCommand_decodeOp h

/-- The states a command's completion can answer. -/
inductive Completion (s : State) : Instr → State → Prop
  /-- R106. -/
  | nop : Completion s .nop s.finish
  /-- R211: an error of a command other than CONFIG. -/
  | error {i : Instr} {c : ErrCode} (hi : i.isConfig = false) (hc : c ≠ .none) : Completion s i (s.finishError c)
  /-- R26: a result in R, an n-bit value. -/
  | result {i : Instr} {v : Nat} (hi : i.writesR = true) (hperm : i ≠ .permchk) (hn : s.width ≤ Config.NMAX)
      (hv : v < 2 ^ s.width) : Completion s i (s.finishResult v)
  /-- R143: R and PERM. -/
  | permchk (h1 : 1 ≤ s.width) (hn : s.width ≤ Config.NMAX) :
      Completion s .permchk
        { s.finishResult (euclid s.e (groupOrder s.width)) with
            perm := decide (euclid s.e (groupOrder s.width) = 1) }
  /-- R146: D. -/
  | dexp {d : Nat} (h1 : 1 ≤ s.width) (hn : s.width ≤ Config.NMAX) (hd : dexp s.e s.width = some d) :
      Completion s .dexp { s.finish with d := d }
  /-- R171 `fail(c)`. -/
  | configError (v : Variant) (auto : Bool) {c : ErrCode} (hc : c ≠ .none) :
      Completion s (configInstr v auto) (s.clearCfgv.finishError c)
  /-- R181, after every check of R171. -/
  | configCommit (v : Variant) (auto : Bool) {e d : Nat} {count : Int} (he : e = effectiveExponent v s)
      (hcount : count = roundCount v auto e s.width s) (h1 : 1 ≤ s.width) (hn : s.width ≤ Config.NMAX)
      (he2 : 2 ≤ e) (hgcd : euclid e (groupOrder s.width) = 1) (hc1 : 1 ≤ count)
      (hcmax : count.toNat ≤ Config.RMAX) (hd : Sys2Proof.dexp e s.width = some d) :
      Completion s (configInstr v auto) (configCommit e count.toNat d s)

section
variable {s t : State} {i : Instr}

theorem plainCommand_completion {value : Nat → Nat} (h : plainCommand s value = .next t) (hi : i.writesR = true)
    (hperm : i ≠ .permchk) (hv : value s.width < 2 ^ s.width) : Completion s i t := by
  rcases plainCommand_cases s value with ⟨-, hn, heq⟩ | ⟨-, heq⟩
  · cases heq.symm.trans h
    exact .result hi hperm hn hv
  · cases heq.symm.trans h
    exact .error (isConfig_of_writesR hi) (by decide)

theorem fieldCommand_completion {value : Nat → Nat → Nat} (h : fieldCommand s value = .next t)
    (hi : i.writesR = true) (hperm : i ≠ .permchk)
    (hv : ∀ p, Config.IRRED s.width = some p → value s.width p < 2 ^ s.width) : Completion s i t := by
  rcases fieldCommand_cases s value with ⟨p, -, hn, hp, heq⟩ | ⟨-, heq⟩
  · cases heq.symm.trans h
    exact .result hi hperm hn (hv p hp)
  · cases heq.symm.trans h
    exact .error (isConfig_of_writesR hi) (by decide)

theorem cipherCommand_completion {order : List Nat} {x : Nat} (h : cipherCommand order x s = .next t)
    (hi : i.writesR = true) (hperm : i ≠ .permchk) : Completion s i t := by
  rcases cipherCommand_cases order x s with ⟨c, hc, heq⟩ | ⟨p, -, hn, -, hp, ⟨j, -, heq⟩ | ⟨st, hrun, heq⟩⟩
  · cases heq.symm.trans h
    exact .error (isConfig_of_writesR hi) hc
  · cases heq.symm.trans h
  · cases heq.symm.trans h
    have hst : st < 2 ^ s.width := runRounds_lt hp (fe_lt _ _) (fe_lt _ _) hrun
    exact .result hi hperm hn (Nat.xor_lt_two_pow hst (fe_lt _ _))

theorem execPermchk_completion (h : execPermchk s = .next t) : Completion s .permchk t := by
  unfold execPermchk at h
  rcases withWidth_cases s _ with ⟨h1, hn, heq⟩ | ⟨-, heq⟩
  · cases heq.symm.trans h
    exact .permchk h1 hn
  · cases heq.symm.trans h
    exact .error rfl (by decide)

theorem execDexp_completion (h : execDexp s = .next t) : Completion s .dexp t := by
  unfold execDexp at h
  rcases withWidth_cases s _ with ⟨h1, hn, heq⟩ | ⟨-, heq⟩
  · rw [heq] at h
    split at h
    next =>
      cases h
      exact .error rfl (by decide)
    next d hd =>
      cases h
      exact .dexp h1 hn hd
  · cases heq.symm.trans h
    exact .error rfl (by decide)

theorem configure_completion {v : Variant} {auto : Bool} (h : configure v auto s = .next t) :
    Completion s (configInstr v auto) t := by
  rcases configure_cases v auto s with ⟨c, hc, heq⟩ | ⟨d, h1, hn, -, he2, hgcd, hc1, hcmax, hd, heq⟩
  · cases heq.symm.trans h
    exact .configError v auto hc
  · cases heq.symm.trans h
    exact .configCommit v auto rfl rfl h1 hn he2 hgcd hc1 hcmax hd

/-- Every command that answers a next state answers a completion. -/
theorem exec_completion (hi : i.isCommand = true) (h : exec i s = .next t) : Completion s i t := by
  have hfe (v : Nat) : fe s.width v < 2 ^ s.width := fe_lt _ v
  have hround (p : Nat) (hp : Config.IRRED s.width = some p) (x : Nat) :
      roundPower s.width p (fe s.width s.a) (fe s.width s.k) (fe s.width s.b) x < 2 ^ s.width :=
    roundPower_lt hp (hfe _) (hfe _) (hfe _) x
  cases i with
  | nop =>
    cases h
    exact .nop
  | illegal w =>
    cases h
    exact .error rfl (by decide)
  | add => exact plainCommand_completion (show execAdd s = _ from h) rfl nofun (Nat.xor_lt_two_pow (hfe _) (hfe _))
  | kadd => exact plainCommand_completion (show execKadd s = _ from h) rfl nofun (Nat.xor_lt_two_pow (hfe _) (hfe _))
  | gcd => exact plainCommand_completion (show execGcd s = _ from h) rfl nofun (euclid_lt (hfe _) (hfe _))
  | mul => exact fieldCommand_completion (show execMul s = _ from h) rfl nofun (fun p hp => gfMul_lt hp (hfe _) _)
  | pow => exact fieldCommand_completion (show execPow s = _ from h) rfl nofun (fun p hp => powSquare_lt hp (hfe _) _)
  | pown => exact fieldCommand_completion (show execPown s = _ from h) rfl nofun (fun p hp => powNaive_lt hp _ _)
  | round => exact fieldCommand_completion (show execRound s = _ from h) rfl nofun (fun p hp => hround p hp _)
  | iround => exact fieldCommand_completion (show execIround s = _ from h) rfl nofun (fun p hp => hround p hp _)
  | permchk => exact execPermchk_completion h
  | dexp => exact execDexp_completion h
  | configGn => exact configure_completion (v := .gn) (auto := false) h
  | configMimc => exact configure_completion (v := .mimc) (auto := false) h
  | configMimc5 => exact configure_completion (v := .mimc5) (auto := false) h
  | configGnAuto => exact configure_completion (v := .gn) (auto := true) h
  | configMimcAuto => exact configure_completion (v := .mimc) (auto := true) h
  | configMimc5Auto => exact configure_completion (v := .mimc5) (auto := true) h
  | enc => exact cipherCommand_completion h rfl nofun
  | dec => exact cipherCommand_completion h rfl nofun
  | hostwr addr data => cases hi
  | hostrd addr => cases hi

/-- R21: no command writes RC. -/
theorem Completion.rc_eq (h : Completion s i t) : t.rc = s.rc := by cases h <;> rfl

/-- R33: a completion that raises CFGV is a CONFIG's. -/
theorem Completion.isConfig_of_cfgv_raised (h : Completion s i t) (hs : s.cfgv = false) (ht : t.cfgv = true) :
    i.isConfig = true := by
  cases h with
  | configCommit v auto => exact isConfig_configInstr v auto
  | configError v auto => exact isConfig_configInstr v auto
  | nop | error | result | permchk | dexp => exact absurd (hs.symm.trans ht) (by decide)

end

end Sys2Proof.Laws
end

section
/-! SUPPORT. All a step can do (R64, R230, R234), and what the port's part of it leaves in RC, CFGV and PEND. -/

namespace Sys2Proof.Laws

open Sys2Proof.Machine

/-- The state after the port's transaction of a cycle. -/
def afterTxn : Txn → State → State
  | .quiet, s => s
  | .read addr, s => takeRead addr s
  | .write addr v, s => hostWrite addr v s

theorem txnEdge_eq_afterTxn (txn : Txn) (s : State) : txnEdge txn s = .next (afterTxn txn s) := by
  cases txn <;> rfl

section
variable {s t : State}

/-- The pending command's part of an edge: none, one cycle nearer, or the completion. -/
theorem pendingEdge_cases {before : Option Pending} (h : pendingEdge before s = .next t) :
    (before = none ∧ t = s) ∨
    (∃ q, before = some q ∧ 1 < q.cyclesLeft ∧ t = countDown q s) ∨
    (∃ q, before = some q ∧ q.cyclesLeft ≤ 1 ∧ Completion s (decodeCmd q.word) t) := by
  cases before with
  | none =>
    cases h
    exact .inl ⟨rfl, rfl⟩
  | some q =>
    simp only [pendingEdge] at h
    split at h
    next hq => exact .inr (.inr ⟨q, rfl, hq, exec_completion (isCommand_decodeCmd q.word) h⟩)
    next hq =>
      cases h
      exact .inr (.inl ⟨q, rfl, by omega, rfl⟩)

theorem eq_mk_of_rst_eq_false {p : PortIn} (h : p.rst = false) : p = ⟨false, p.txn⟩ := by
  rw [← h]

/-- All a step can do: reset; or the transaction of the cycle, then the pending command's part of the edge. -/
theorem step_cases (h : step s = .next t) :
    (∃ p, s.port.head? = some p ∧ p.rst = true ∧ t = resetTxn p.txn { s with port := s.port.tail }) ∨
    (∃ txn, s.port.headD ⟨false, .quiet⟩ = ⟨false, txn⟩ ∧
      pendingEdge s.pend (afterTxn txn { s with port := s.port.tail }) = .next t) := by
  rw [step_eq_edge] at h
  rcases edge_cases (s.port.headD ⟨false, .quiet⟩) { s with port := s.port.tail } with
    ⟨hrst, heq⟩ | ⟨hrst, s', htxn, heq⟩
  · cases heq.symm.trans h
    cases hport : s.port with
    | nil => simp [hport] at hrst
    | cons p rest => exact .inl ⟨p, rfl, by simpa [hport] using hrst, rfl⟩
  · cases (txnEdge_eq_afterTxn _ _).symm.trans htxn
    exact .inr ⟨_, eq_mk_of_rst_eq_false hrst, heq.symm.trans h⟩

/-- A transaction that is not quiet is a listed input of the port. -/
theorem head?_of_headD {ports : List PortIn} {p : PortIn} (h : ports.headD ⟨false, .quiet⟩ = p)
    (hp : p.txn ≠ .quiet) : ports.head? = some p := by
  cases ports with
  | nil => exact absurd (congrArg PortIn.txn h.symm) hp
  | cons p' rest => exact congrArg some h

/-! The transaction's part. -/

/-- R236: a transaction leaves a command that is pending before the edge pending. -/
theorem afterTxn_pend {q : Pending} (h : s.pend = some q) (txn : Txn) : (afterTxn txn s).pend = some q := by
  cases txn with
  | quiet => exact h
  | read addr => exact h
  | write addr v =>
    rw [afterTxn, hostWrite_busy (by simp [h]), setOverrun_pend]
    exact h

/-- R103: an accepted write through RCDATA sets one entry. -/
theorem rcWrite_rc (v : Nat) (s : State) :
    (rcWrite v s).rc = s.rc ∨
    (1 ≤ s.rcidx ∧ s.rcidx < Config.RMAX ∧
      (rcWrite v s).rc = Memory.insert s.rc s.rcidx (trunc Config.NMAX v)) := by
  unfold rcWrite
  split
  next hidx => exact .inr ⟨hidx.1, hidx.2, rfl⟩
  next => exact .inl rfl

theorem rcWrite_cfgv (h : s.cfgv = false) (v : Nat) : (rcWrite v s).cfgv = false := by
  unfold rcWrite
  split
  · rfl
  · exact h

/-- R32: no host write but the one to RCDATA changes RC. -/
theorem hostWriteIdle_rc (addr : Addr) (v : Nat) (s : State) :
    (hostWriteIdle addr v s).rc = s.rc ∨
    (addr = 0x0C#5 ∧ hostWriteIdle addr v s = rcWrite v s) := by
  by_cases haddr : addr = 0x0C#5
  · subst haddr
    exact .inr ⟨rfl, rfl⟩
  · left
    unfold hostWriteIdle
    split
    case h_11 htwelve => exact absurd (BitVec.eq_of_toNat_eq htwelve) haddr
    all_goals rfl

/-- R39: a host write never sets CFGV. -/
theorem hostWriteIdle_cfgv (h : s.cfgv = false) (addr : Addr) (v : Nat) :
    (hostWriteIdle addr v s).cfgv = false := by
  unfold hostWriteIdle
  split
  case h_11 => exact rcWrite_cfgv h v
  all_goals simp [accept, h]

/-- All a transaction can do to RC. -/
theorem afterTxn_rc (txn : Txn) (s : State) :
    (afterTxn txn s).rc = s.rc ∨
    (s.pend = none ∧ 1 ≤ s.rcidx ∧ s.rcidx < Config.RMAX ∧ ∃ v, txn = .write 0x0C#5 v ∧
      (afterTxn txn s).rc = Memory.insert s.rc s.rcidx (v % 2 ^ Config.NMAX)) := by
  cases txn with
  | quiet => exact .inl rfl
  | read addr => exact .inl rfl
  | write addr v =>
    rw [afterTxn]
    cases hpend : s.pend with
    | some q => exact .inl (by rw [hostWrite_busy (by simp [hpend]), setOverrun_rc])
    | none =>
      rw [hostWrite_idle hpend]
      rcases hostWriteIdle_rc addr (trunc Config.PW v) s with h | ⟨rfl, h⟩
      · exact .inl h
      · rw [h]
        refine (rcWrite_rc (trunc Config.PW v) s).imp id fun ⟨h1, hmax, hrc⟩ => ⟨rfl, h1, hmax, v, rfl, ?_⟩
        rw [hrc, trunc_trunc NMAX_le_PW, trunc_eq_mod]

theorem afterTxn_cfgv (h : s.cfgv = false) (txn : Txn) : (afterTxn txn s).cfgv = false := by
  cases txn with
  | quiet => exact h
  | read addr => exact h
  | write addr v =>
    rw [afterTxn, hostWrite]
    split
    · exact h
    · exact hostWriteIdle_cfgv h addr _

/-- The pending command's part of an edge leaves RC as it is. -/
theorem pendingEdge_rc {before : Option Pending} (h : pendingEdge before s = .next t) : t.rc = s.rc := by
  rcases pendingEdge_cases h with ⟨-, rfl⟩ | ⟨q, -, -, rfl⟩ | ⟨q, -, -, hc⟩
  · rfl
  · rfl
  · exact hc.rc_eq

@[simp] theorem resetTxn_cfgv (txn : Txn) (s : State) : (resetTxn txn s).cfgv = false := by
  cases txn <;> rfl

end

end Sys2Proof.Laws
end

section
/-! SUPPORT. Each operation keeps the invariant (R21, R35 to R39): the reset, the transactions, the count down and the
completions. -/

namespace Sys2Proof.Laws

open Sys2Proof.Machine

theorem lt_two_pow_of_le {v m n : Nat} (h : v < 2 ^ m) (hmn : m ≤ n) : v < 2 ^ n :=
  h.trans_le (Nat.pow_le_pow_right (by decide) hmn)

/-- A count that is at most one more than a width in range fits the port, whatever RMAX is. -/
theorem lt_PW_of_le_width_succ {v n : Nat} (hv : v ≤ n + 1) (hn : n ≤ Config.NMAX) : v < 2 ^ Config.PW := by
  have hbig : Config.NMAX + 1 < 2 ^ Config.NMAX := by
    obtain ⟨m, hm⟩ := Nat.exists_eq_add_of_le' seventeen_le_NMAX
    have hlt : m < 2 ^ m := Nat.lt_two_pow_self
    rw [hm, pow_add]
    omega
  exact lt_two_pow_of_le (by omega) NMAX_le_PW

section
variable {s t : State}

/-- R104: what RCDATA reads has NMAX bits, the free value too. -/
theorem rcRead_lt (h : Memory.wf s.rc = true) : rcRead s < 2 ^ Config.NMAX := by
  unfold rcRead
  split
  · exact Nat.two_pow_pos _
  · split
    next hpos _ =>
      rw [read_pos (Nat.one_le_iff_ne_zero.2 hpos)]
      cases hl : Memory.lookup s.rc s.rcidx with
      | none => exact trunc_lt _ _
      | some v => exact (lookup_lt h hl).2
    next => exact Nat.two_pow_pos _

/-- R63: a read returns PW bits at every address. -/
theorem hostRead_lt (h : s.Inv) (addr : Addr) : hostRead addr s < 2 ^ Config.PW := by
  obtain ⟨hwidth, ha, hb, hk, hr, he, hd, hrounds, hrred, hrcidx, -⟩ := h.widths
  unfold hostRead
  split
  · obtain ⟨-, -, -, -, -, -, -, hlt⟩ := statusWord_fields s
    have h17 := seventeen_le_NMAX.trans NMAX_le_PW
    exact lt_two_pow_of_le (m := 10) hlt (by omega)
  · exact hwidth
  · exact lt_two_pow_of_le ha NMAX_le_PW
  · exact lt_two_pow_of_le hb NMAX_le_PW
  · exact lt_two_pow_of_le hk NMAX_le_PW
  · exact lt_two_pow_of_le hr NMAX_le_PW
  · exact he
  · exact hd
  · exact hrounds
  · exact hrred
  · exact hrcidx
  · exact lt_two_pow_of_le (rcRead_lt h.memory) NMAX_le_PW
  · exact Nat.two_pow_pos _

/-! Reset and the port. -/

theorem inv_resetEdge (h : s.rdata < 2 ^ Config.PW) : (resetEdge s).Inv where
  widths := by constructor <;> simp [h]
  memory := rfl
  pending := nofun
  status := by constructor <;> simp
  config := nofun

theorem inv_withPort (h : s.Inv) (ports : List PortIn) : State.Inv { s with port := ports } :=
  { h with widths := { h.widths with }, status := { h.status with }, config := fun hc => { h.config hc with } }

theorem inv_takeRead (h : s.Inv) (addr : Addr) : (takeRead addr s).Inv :=
  { h with
    widths := { h.widths with rdata := hostRead_lt h addr }
    status := { h.status with }
    config := fun hc => { h.config hc with } }

theorem inv_setOverrun (h : s.Inv) : s.setOverrun.Inv :=
  { h with widths := { h.widths with }, status := { h.status with }, config := fun hc => { h.config hc with } }

theorem inv_clearCfgv (h : s.Inv) : s.clearCfgv.Inv :=
  { h with widths := { h.widths with }, status := { h.status with }, config := nofun }

/-- R105: acceptance clears the error with its code, and the word has its completion edge to come. -/
theorem inv_accept (h : s.Inv) {w : Nat} (hw : w < 2 ^ Config.PW) : (accept w s).Inv :=
  { h with
    widths := { h.widths with }
    pending := by
      rintro q ⟨⟩
      exact ⟨hw, LAT_pos _ _⟩
    status := ⟨by simp [accept], nofun, fun _ => rfl⟩
    config := fun hc => { h.config hc with } }

theorem inv_rcWrite (h : s.Inv) (v : Nat) : (rcWrite v s).Inv := by
  have hmem := rcWrite_keeps_wf h.memory v
  unfold rcWrite at hmem ⊢
  split
  next hidx =>
    rw [if_pos hidx] at hmem
    exact { h with widths := { h.widths with }, memory := hmem, status := { h.status with }, config := nofun }
  next => exact h

/-- A write to the registers that R39 does not speak of keeps the invariant if the values fit. -/
theorem inv_withData (h : s.Inv) {a b k rred rcidx : Nat}
    (hw : State.WidthsOk { s with a := a, b := b, k := k, rred := rred, rcidx := rcidx }) :
    State.Inv { s with a := a, b := b, k := k, rred := rred, rcidx := rcidx } :=
  { h with widths := hw, status := { h.status with }, config := fun hc => { h.config hc with } }

/-- R72: a write to the configuration clears CFGV, so R39 asks nothing of the new value. -/
theorem inv_withConfig (h : s.Inv) {width e d rounds : Nat}
    (hw : State.WidthsOk { s.clearCfgv with width := width, e := e, d := d, rounds := rounds }) :
    State.Inv { s.clearCfgv with width := width, e := e, d := d, rounds := rounds } :=
  { h with widths := hw, status := { h.status with }, config := nofun }

/-- R101, a write to each address in its order. -/
theorem inv_hostWriteIdle (h : s.Inv) {v : Nat} (hv : v < 2 ^ Config.PW) (addr : Addr) :
    (hostWriteIdle addr v s).Inv := by
  have hw := h.widths
  unfold hostWriteIdle
  split
  · exact inv_accept h hv
  · exact inv_withConfig h { hw with width := hv }
  · exact inv_withData h { hw with a := trunc_lt _ _ }
  · exact inv_withData h { hw with b := trunc_lt _ _ }
  · exact inv_withData h { hw with k := trunc_lt _ _ }
  · exact inv_withConfig h { hw with e := trunc_lt _ _ }
  · exact inv_withConfig h { hw with d := trunc_lt _ _ }
  · exact inv_withConfig h { hw with rounds := hv }
  · exact inv_withData h { hw with rred := hv }
  · exact inv_withData h { hw with rcidx := hv }
  · exact inv_rcWrite h v
  · exact h

theorem inv_afterTxn (h : s.Inv) (txn : Txn) : (afterTxn txn s).Inv := by
  cases txn with
  | quiet => exact h
  | read addr => exact inv_takeRead h addr
  | write addr v =>
    rw [afterTxn, hostWrite]
    split
    · exact inv_setOverrun h
    · exact inv_hostWriteIdle h (trunc_lt _ v) addr

theorem inv_resetTxn (h : s.Inv) (txn : Txn) : (resetTxn txn s).Inv := by
  cases txn with
  | quiet => exact inv_resetEdge h.widths.rdata
  | read addr => exact inv_resetEdge (hostRead_lt h addr)
  | write addr v => exact inv_resetEdge h.widths.rdata

/-! The pending command. -/

theorem inv_countDown {q : Pending} (h : s.Inv) (hq : s.pend = some q) (hlt : 1 < q.cyclesLeft) :
    (countDown q s).Inv :=
  { h with
    widths := { h.widths with }
    pending := by
      rintro q' ⟨⟩
      exact ⟨(h.pending q hq).1, Nat.le_sub_one_of_lt hlt⟩
    status := { h.status with busy := fun _ => h.status.busy (by simp [hq]) }
    config := fun hc => { h.config hc with } }

theorem inv_finish (h : s.Inv) : s.finish.Inv :=
  { h with
    widths := { h.widths with }
    pending := nofun
    status := ⟨h.status.code, fun _ => rfl, nofun⟩
    config := fun hc => { h.config hc with } }

theorem inv_finishError (h : s.Inv) {c : ErrCode} (hc : c ≠ .none) : (s.finishError c).Inv :=
  { inv_finish h with
    widths := { h.widths with }
    status := ⟨by simp [hc], fun _ => rfl, nofun⟩
    config := fun hcfgv => { h.config hcfgv with } }

theorem inv_finishResult (h : s.Inv) {v : Nat} (hv : v < 2 ^ Config.NMAX) : (s.finishResult v).Inv :=
  { inv_finish h with
    widths := { h.widths with r := hv }
    status := { (inv_finish h).status with }
    config := fun hc => { h.config hc with } }

theorem inv_withPerm (h : s.Inv) (b : Bool) : State.Inv { s with perm := b } :=
  { h with widths := { h.widths with }, status := { h.status with }, config := fun hc => { h.config hc with } }

/-- R146 under R39: while CFGV = 1, DEXP writes the value that D has. -/
theorem inv_finish_dexp (h : s.Inv) {d : Nat} (h1 : 1 ≤ s.width) (hn : s.width ≤ Config.NMAX)
    (hd : dexp s.e s.width = some d) : State.Inv { s.finish with d := d } :=
  { inv_finish h with
    widths := { h.widths with d := lt_two_pow_of_le (dexp_lt h1 hd) (hn.trans NMAX_le_EW) }
    status := { (inv_finish h).status with }
    config := fun hc => { h.config hc with inverse := hd } }

/-- R172: the constants 3 and 5 fit E. -/
theorem effectiveExponent_lt (h : s.e < 2 ^ Config.EW) (v : Variant) : effectiveExponent v s < 2 ^ Config.EW := by
  have h17 := seventeen_le_NMAX.trans NMAX_le_EW
  cases v with
  | gn => exact h
  | mimc => exact lt_two_pow_of_le (m := 2) (by decide : 3 < 2 ^ 2) (by omega)
  | mimc5 => exact lt_two_pow_of_le (m := 3) (by decide : 5 < 2 ^ 3) (by omega)

/-- R177 and R178: a supplied count is ROUNDS, a derived one at most one more than the width. -/
theorem roundCount_toNat_lt (h : s.rounds < 2 ^ Config.PW) (hn : s.width ≤ Config.NMAX) (v : Variant) (auto : Bool)
    (e : Nat) : (roundCount v auto e s.width s).toNat < 2 ^ Config.PW := by
  cases auto with
  | false => exact h
  | true =>
    refine lt_PW_of_le_width_succ ?_ hn
    have hle := deriveRounds_le e s.width
    simp only [roundCount, if_true]
    split <;> omega

/-- R181 gives R39: the checks passed are what CFGV = 1 stands for. -/
theorem inv_configCommit (h : s.Inv) {e d count : Nat} (h1 : 1 ≤ s.width) (hn : s.width ≤ Config.NMAX)
    (he : e < 2 ^ Config.EW) (he2 : 2 ≤ e) (hgcd : euclid e (groupOrder s.width) = 1)
    (hcount : count < 2 ^ Config.PW) (hc1 : 1 ≤ count) (hcmax : count ≤ Config.RMAX)
    (hd : dexp e s.width = some d) : (configCommit e count d s).Inv :=
  { inv_finish h with
    widths := { h.widths with
      e := he, rounds := hcount, d := lt_two_pow_of_le (dexp_lt h1 hd) (hn.trans NMAX_le_EW) }
    status := { (inv_finish h).status with }
    config := fun _ => ⟨h1, hn, he2, (euclid_eq_gcd _ _).symm.trans hgcd, hd, hc1, hcmax⟩ }

theorem Completion.inv {i : Instr} (hcompl : Completion s i t) (h : s.Inv) : t.Inv := by
  cases hcompl with
  | nop => exact inv_finish h
  | error _ hc => exact inv_finishError h hc
  | result _ _ hn hv => exact inv_finishResult h (lt_two_pow_of_le hv hn)
  | permchk h1 hn => exact inv_withPerm (inv_finishResult h (lt_two_pow_of_le (euclid_groupOrder_lt s.e h1) hn)) _
  | dexp h1 hn hd => exact inv_finish_dexp h h1 hn hd
  | configError v auto hc => exact inv_finishError (inv_clearCfgv h) hc
  | configCommit v auto he hcount h1 hn he2 hgcd hc1 hcmax hd =>
    subst he hcount
    exact inv_configCommit h h1 hn (effectiveExponent_lt h.widths.e v) he2 hgcd
      (roundCount_toNat_lt h.widths.rounds hn v auto _) (by omega) hcmax hd

theorem inv_pendingEdge (h : s.Inv) {before : Option Pending} (hbefore : ∀ q, before = some q → s.pend = some q)
    (hedge : pendingEdge before s = .next t) : t.Inv := by
  rcases pendingEdge_cases hedge with ⟨-, rfl⟩ | ⟨q, hq, hlt, rfl⟩ | ⟨q, -, -, hcompl⟩
  · exact h
  · exact inv_countDown h (hbefore q hq) hlt
  · exact hcompl.inv h

theorem inv_step (h : s.Inv) (hstep : step s = .next t) : t.Inv := by
  have hport := inv_withPort h s.port.tail
  rcases step_cases hstep with ⟨p, -, -, rfl⟩ | ⟨txn, -, hedge⟩
  · exact inv_resetTxn hport p.txn
  · exact inv_pendingEdge (inv_afterTxn hport txn) (fun q hq => afterTxn_pend hq txn) hedge

end

end Sys2Proof.Laws
end

section
/-! The statements on the unit's state (10_state.md). -/

namespace Sys2Proof.Proofs

open Sys2Proof.Machine Sys2Proof.Laws

/-- Settles O59: the port's transaction keeps the invariant, and the pending command's part of the edge does too. -/
theorem stepKeepsInvariant : Obligations.StepKeepsInvariant := fun _ _ => inv_step

/-- Settles O60: the reset state is what a reset edge makes of itself. -/
theorem resetHasInvariant : Obligations.ResetHasInvariant :=
  inv_resetEdge (s := State.reset) (Nat.two_pow_pos _)

/-- Settles O23: each field is its slice of the word, which has no bit above bit 9. -/
theorem statusWordBits : Obligations.StatusWordBits := by
  intro s
  rw [hostRead_status]
  obtain ⟨hbusy, hdone, herr, hovr, hcode, hcfgv, hperm, hlt⟩ := statusWord_fields s
  refine ⟨testBit_eq_of_div_mod ?_, testBit_eq_of_div_mod hdone, testBit_eq_of_div_mod herr,
    testBit_eq_of_div_mod hovr, hcode, code_le_eight _, testBit_eq_of_div_mod hcfgv, testBit_eq_of_div_mod hperm,
    fun j hj => Nat.testBit_eq_false_of_lt (lt_two_pow_of_le (m := 10) hlt hj)⟩
  rwa [Nat.pow_zero, Nat.div_one]

/-- Settles O32: a command leaves RC as it is, and of the transactions only a write to RCDATA does not. -/
theorem rcChangesOnlyByHostWrite : Obligations.RcChangesOnlyByHostWrite := by
  intro s t i hstep hne
  rcases step_cases hstep with ⟨p, hp, hrst, -⟩ | ⟨txn, htxn, hedge⟩
  · exact ⟨p, hp, .inl hrst⟩
  · rw [pendingEdge_rc hedge] at hne ⊢
    rcases afterTxn_rc txn { s with port := s.port.tail } with hrc | ⟨hidle, h1, hmax, v, rfl, hrc⟩
    · exact absurd (by rw [hrc]) hne
    · rw [hrc, read_insert h1] at hne
      obtain rfl : i = s.rcidx := by
        by_contra hi
        exact hne (if_neg hi)
      refine ⟨_, head?_of_headD htxn nofun, .inr ⟨hidle, rfl, h1, hmax, v, rfl, ?_⟩⟩
      rw [hrc, read_insert h1, if_pos rfl]

/-- Settles O33: no transaction raises CFGV, and of the completions only CONFIG's does. -/
theorem cfgvRaisedOnlyByConfig : Obligations.CfgvRaisedOnlyByConfig := by
  intro s t hstep hs ht
  rcases step_cases hstep with ⟨p, -, -, rfl⟩ | ⟨txn, -, hedge⟩
  · simp at ht
  · have hafter := afterTxn_cfgv (s := { s with port := s.port.tail }) hs txn
    rcases pendingEdge_cases hedge with ⟨-, rfl⟩ | ⟨q, -, -, rfl⟩ | ⟨q, hq, hlast, hcompl⟩
    · exact absurd (hafter.symm.trans ht) Bool.false_ne_true
    · exact absurd (hafter.symm.trans ht) Bool.false_ne_true
    · exact ⟨q, hq, hlast, hcompl.isConfig_of_cfgv_raised hafter ht⟩

/-- Settles O57: what each completion writes. -/
theorem commandsWriteOnlyTheirRegisters : Obligations.CommandsWriteOnlyTheirRegisters := by
  intro i s t hi h
  cases exec_completion hi h with
  | nop => simp
  | error => simp
  | result hr hperm => simp [hr]
  | permchk => simp [Instr.writesR]
  | dexp => simp
  | configError => simp
  | configCommit => simp

end Sys2Proof.Proofs
end

section
/-! SUPPORT. The unit as a memory (R62, R64, R73, R234): the instruction a step runs, what an access reaches. -/

namespace Sys2Proof.Laws

open Sys2Proof.Machine

variable {s : State}

/-! The transactions as instructions. -/

theorem exec_hostwr (addr : Addr) (v : Nat) (s : State) : exec (.hostwr addr v) s = .next (hostWrite addr v s) := rfl

theorem exec_hostrd (addr : Addr) (s : State) : exec (.hostrd addr) s = .next (takeRead addr s) := rfl

/-! The instruction a step runs. -/

/-- An edge without reset: the transaction of the cycle, then the pending command's part. -/
theorem step_eq_pendingEdge {txn : Txn} (hport : s.port.headD ⟨false, .quiet⟩ = ⟨false, txn⟩) :
    step s = pendingEdge s.pend (afterTxn txn { s with port := s.port.tail }) := by
  rw [step_eq_edge, hport, edge, txnEdge_eq_afterTxn]
  rfl

/-- In an idle unit the transaction is the whole edge. -/
theorem step_idle {txn : Txn} {rest : List PortIn} (hidle : s.pend = none) (hport : s.port = ⟨false, txn⟩ :: rest) :
    step s = .next (afterTxn txn { s with port := rest }) := by
  rw [step_eq_pendingEdge (by rw [hport]; rfl), hidle, hport]
  rfl

/-- R234: with a quiet port, a completion edge runs the pending word. -/
theorem step_completion {w c : Nat} (hpend : s.pend = some ⟨w, c⟩) (hc : c ≤ 1)
    (hport : s.port.headD ⟨false, .quiet⟩ = ⟨false, .quiet⟩) :
    step s = exec (decodeCmd w) { s with port := s.port.tail } := by
  rw [step_eq_pendingEdge hport, hpend]
  exact if_pos hc

/-- The transaction that `State.place` drives for a coded port access. -/
theorem exec_decodePort (header : BitVec 6) (data : Nat) (s : State) :
    exec (decodePort header data) s =
      .next (afterTxn
        (if header.getLsbD 5 then .write (header.setWidth 5) data else .read (header.setWidth 5)) s) := by
  unfold decodePort
  split <;> rfl

theorem step_place_port (hidle : s.pend = none) (header : BitVec 6) (data : Nat) :
    step (s.place (.port header data)) = exec (decodePort header data) s :=
  (step_idle (s := s.place (.port header data)) hidle rfl).trans (exec_decodePort header data s).symm

theorem step_place_cmd {w : Nat} (hw : w < 2 ^ Config.PW) (s : State) :
    step (s.place (.cmd w)) = exec (decodeCmd w) { s with pend := some ⟨w, 1⟩ } := by
  have hpend : (s.place (.cmd w)).pend = some ⟨w, 1⟩ := by simp [State.place, trunc_of_lt hw]
  rw [step_completion hpend (Nat.le_refl 1) rfl]
  simp [State.place, trunc_of_lt hw]

/-! The decoder's answers. -/

theorem decode_cmd_ok {w : Nat} {i : Instr} (h : decode (.cmd w) = .ok i) : w < 2 ^ Config.PW ∧ decodeCmd w = i := by
  simp only [decode] at h
  split at h
  next hw => exact ⟨(fits_iff _ _).1 hw, Except.ok.inj h⟩
  next => cases h

theorem decode_port_ok {header : BitVec 6} {data : Nat} {i : Instr} (h : decode (.port header data) = .ok i) :
    decodePort header data = i := by
  simp only [decode] at h
  split at h
  next => exact Except.ok.inj h
  next => cases h

/-- R88: header `1aaaaa` is a write. -/
theorem decodePort_write (addr : Addr) (v : Nat) : decodePort (BitVec.append (1#1) addr) v = .hostwr addr v := by
  have hbits : ∀ a : Addr, (BitVec.append (1#1) a).getLsbD 5 = true ∧ (BitVec.append (1#1) a).setWidth 5 = a := by
    decide
  obtain ⟨hwen, haddr⟩ := hbits addr
  rw [decodePort, hwen, haddr]
  rfl

/-- R88: header `0aaaaa` is a read. -/
theorem decodePort_read (addr : Addr) (v : Nat) : decodePort (BitVec.append (0#1) addr) v = .hostrd addr := by
  have hbits : ∀ a : Addr, (BitVec.append (0#1) a).getLsbD 5 = false ∧ (BitVec.append (0#1) a).setWidth 5 = a := by
    decide
  obtain ⟨hwen, haddr⟩ := hbits addr
  rw [decodePort, hwen, haddr]
  rfl

theorem decodeTableWord_some {nbits w : Nat} {i : Instr} (h : decodeTableWord nbits w = some i) :
    decode (codedOfTableWord nbits w) = .ok i := by
  unfold decodeTableWord at h
  cases hdecode : decode (codedOfTableWord nbits w) with
  | error => simp [hdecode, Except.toOption] at h
  | ok j => simpa [hdecode, Except.toOption] using h

/-! What a host access reaches. -/

/-- R62 and R100: an idle write to a reserved address, to STATUS or to R does nothing. -/
theorem hostWriteIdle_ignored {addr : Addr} (h : 13 ≤ addr.toNat ∨ addr = 0x01#5 ∨ addr = 0x06#5) (v : Nat)
    (s : State) : hostWriteIdle addr v s = s := by
  rcases h with h | rfl | rfl
  · unfold hostWriteIdle
    split
    case h_12 => rfl
    all_goals omega
  · rfl
  · rfl

theorem hostRead_reserved {addr : Addr} (h : 13 ≤ addr.toNat) (s : State) : hostRead addr s = 0 := by
  unfold hostRead
  split
  case h_13 => rfl
  all_goals omega

theorem rcWrite_pend (v : Nat) (s : State) : (rcWrite v s).pend = s.pend := by
  unfold rcWrite
  split <;> rfl

theorem rcWrite_port (v : Nat) (s : State) : (rcWrite v s).port = s.port := by
  unfold rcWrite
  split <;> rfl

/-- Only a write to CMD makes a command pending. -/
theorem hostWriteIdle_pend {addr : Addr} (h : addr ≠ 0x00#5) (v : Nat) (s : State) :
    (hostWriteIdle addr v s).pend = s.pend := by
  unfold hostWriteIdle
  split
  case h_1 hzero => exact absurd (BitVec.eq_of_toNat_eq hzero) h
  case h_11 => exact rcWrite_pend v s
  all_goals rfl

theorem hostWriteIdle_port (addr : Addr) (v : Nat) (s : State) : (hostWriteIdle addr v s).port = s.port := by
  unfold hostWriteIdle
  split
  case h_11 => exact rcWrite_port v s
  all_goals rfl

/-! A read after a write (R73). -/

/-- The addresses of the registers that the host both writes and reads (R60, R101, R102): WIDTH, A, B, K, E, D, ROUNDS,
RRED and RCIDX. -/
def registerAddrs : List Addr := [0x02#5, 0x03#5, 0x04#5, 0x05#5, 0x07#5, 0x08#5, 0x09#5, 0x0A#5, 0x0B#5]

theorem hostRead_hostWriteIdle_register {addr : Addr} (haddr : addr ∈ registerAddrs) {v : Nat}
    (hv : v < 2 ^ Config.NMAX) (s : State) : hostRead addr (hostWriteIdle addr v s) = v := by
  have hnmax : trunc Config.NMAX v = v := trunc_of_lt hv
  have hew : trunc Config.EW v = v := trunc_of_lt (lt_two_pow_of_le hv NMAX_le_EW)
  simp only [registerAddrs, List.mem_cons, List.not_mem_nil, or_false] at haddr
  rcases haddr with rfl | rfl | rfl | rfl | rfl | rfl | rfl | rfl | rfl
  exacts [rfl, hnmax, hnmax, hnmax, hew, hew, rfl, rfl, rfl]

theorem rcRead_rcWrite (h1 : 1 ≤ s.rcidx) (hmax : s.rcidx < Config.RMAX) {v : Nat} (hv : v < 2 ^ Config.NMAX) :
    rcRead (rcWrite v s) = v := by
  have hne : s.rcidx ≠ 0 := Nat.ne_of_gt h1
  simp [rcRead, rcWrite, h1, hmax, hne, read_insert h1, trunc_of_lt hv]

/-- The edge of the write, in an idle unit. -/
theorem step_idle_write {addr : Addr} {v : Nat} {rest : List PortIn} (hidle : s.pend = none)
    (hv : v < 2 ^ Config.PW) (hport : s.port = ⟨false, .write addr v⟩ :: rest) :
    step s = .next (hostWriteIdle addr v { s with port := rest }) := by
  rw [step_idle hidle hport, afterTxn, hostWrite_idle (s := { s with port := rest }) hidle, trunc_of_lt hv]

/-- The edge after it, at which the host takes a read: a write to any address but CMD leaves the unit idle. -/
theorem step_read_after_write {waddr raddr : Addr} {v : Nat} {rest : List PortIn} (hidle : s.pend = none)
    (hcmd : waddr ≠ 0x00#5) (hport : s.port = ⟨false, .read raddr⟩ :: rest) :
    step (hostWriteIdle waddr v s) = .next (takeRead raddr { hostWriteIdle waddr v s with port := rest }) :=
  step_idle ((hostWriteIdle_pend hcmd v s).trans hidle) ((hostWriteIdle_port waddr v s).trans hport)

end Sys2Proof.Laws
end

section
/-! The statements on memory and the port (20_memory.md). -/

namespace Sys2Proof.Proofs

open Sys2Proof.Machine Sys2Proof.Laws

/-- Settles O25: the first edge is the idle write, the second takes the read of the state it leaves. -/
theorem readAfterWriteReturnsValue : Obligations.ReadAfterWriteReturnsValue := by
  intro s addr v rest hidle hv haddr hport
  have hcmd : addr ≠ 0x00#5 := by
    rintro rfl
    simp at haddr
  refine ⟨_, _, step_idle_write hidle (lt_two_pow_of_le hv NMAX_le_PW) hport,
    step_read_after_write hidle hcmd rfl, ?_, (hostWriteIdle_pend hcmd v _).trans hidle, rfl⟩
  rcases haddr with hreg | ⟨rfl, h1, hmax⟩
  · exact hostRead_hostWriteIdle_register hreg hv _
  · exact rcRead_rcWrite (s := { s with port := ⟨false, .read 0x0C#5⟩ :: rest }) h1 hmax hv

/-- Settles O20: no write reaches such an address, and nothing answers a read of a reserved one. -/
theorem reservedAndReadOnlyAddresses : Obligations.ReservedAndReadOnlyAddresses := by
  refine ⟨fun addr v s hidle haddr => ?_, fun addr v s hbusy _ => ?_, fun addr s haddr => ?_⟩
  · rw [exec_hostwr, hostWrite_idle hidle, hostWriteIdle_ignored haddr]
  · rw [exec_hostwr, hostWrite_busy hbusy, State.setOverrun]
  · rw [exec_hostrd, takeRead, hostRead_reserved haddr]

/-- Settles O26: a completion edge with a quiet port, an idle edge with a transaction, and a placed coded form. -/
theorem stepRunsDecodedInstruction : Obligations.StepRunsDecodedInstruction := by
  refine fun s rest i => ⟨fun w c hdecode hc => ?_, fun addr v hdecode hidle => ?_, fun addr v hdecode hidle => ?_,
    fun nbits w hdecode hidle => ⟨fun hport => ?_, fun hcmd => ?_⟩⟩
  · obtain ⟨-, rfl⟩ := decode_cmd_ok hdecode
    exact ⟨step_completion rfl hc rfl, step_completion rfl hc rfl⟩
  · obtain rfl := decode_port_ok hdecode
    rw [decodePort_write]
    exact step_idle (s := { s with port := ⟨false, .write addr v⟩ :: rest }) hidle rfl
  · obtain rfl := decode_port_ok hdecode
    rw [decodePort_read]
    exact step_idle (s := { s with port := ⟨false, .read addr⟩ :: rest }) hidle rfl
  · have hcoded := decodeTableWord_some hdecode
    rw [codedOfTableWord, if_pos hport] at hcoded
    obtain rfl := decode_port_ok hcoded
    rw [State.withFetchWord, codedOfTableWord, if_pos hport]
    exact step_place_port hidle _ _
  · have hcoded := decodeTableWord_some hdecode
    rw [codedOfTableWord, if_neg (Nat.not_le.2 hcmd)] at hcoded
    obtain ⟨hw, rfl⟩ := decode_cmd_ok hcoded
    rw [State.withFetchWord, codedOfTableWord, if_neg (Nat.not_le.2 hcmd)]
    exact step_place_cmd hw s

end Sys2Proof.Proofs
end

section
/-! SUPPORT. The decoder and the encoder (30_encoding.md): the fields of a word, the words of R85 and of R87, and the
port headers of R88. -/

namespace Sys2Proof.Laws

/-! The fields of a command word (R81). -/

theorem cmdOp_eq (w : Nat) : cmdOp w = w % 16 := by simp [cmdOp, bitField]

theorem cmdVar_eq (w : Nat) : cmdVar w = w / 16 % 4 := rfl

theorem cmdAutor_eq (w : Nat) : cmdAutor w = w / 64 % 2 := rfl

theorem cmdRsv_eq (w : Nat) : cmdRsv w = w / 128 := rfl

/-! The opcode map and the fields of CONFIG: what has no instruction. -/

/-- R82: CONFIG has its own fields, and 0xE and 0xF are reserved. -/
theorem decodeOp_eq_none_iff : ∀ op < 16, (decodeOp op = none ↔ op = 0xB ∨ 0xE ≤ op) := by decide

/-- R83: VAR = 3 is reserved. -/
theorem decodeConfig_eq_none_iff : ∀ var < 4, ∀ autor < 2, (decodeConfig var autor = none ↔ var = 3) := by decide

/-! The legal words and the illegal ones. -/

/-- `i` is the instruction of the legal word `w` (R87). -/
structure IsLegal (w : Nat) (i : Instr) : Prop where
  mem : w ∈ legalWords
  wf : i.wf = true
  encode : encode i = .cmd w

theorem isLegal_of_decodeOp {op : Nat} {i : Instr} (h : decodeOp op = some i) : IsLegal op i := by
  unfold decodeOp at h
  split at h <;> cases h <;> exact ⟨by decide, rfl, rfl⟩

theorem isLegal_of_decodeConfig {var autor : Nat} {i : Instr} (h : decodeConfig var autor = some i) :
    IsLegal (0xB + 16 * var + 64 * autor) i := by
  unfold decodeConfig at h
  split at h <;> cases h <;> exact ⟨by decide, rfl, rfl⟩

/-- A legal word is not the word of an ILLEGAL instruction. -/
theorem IsLegal.ne_illegal {w : Nat} {i : Instr} (h : IsLegal w i) : i ≠ .illegal w := by
  rintro rfl
  have hwf := h.wf
  simp [Instr.wf, h.mem] at hwf

theorem decodeCmd_ne_illegal_of_mem : ∀ w ∈ legalWords, decodeCmd w ≠ .illegal w := by decide

/-- R85, the words that answer ILLEGAL_CMD. -/
def IllegalWord (w : Nat) : Prop :=
  w % 16 = 0xE ∨ w % 16 = 0xF ∨ w / 128 ≠ 0 ∨
    (w % 16 ≠ 0xB ∧ (w / 16 % 4 ≠ 0 ∨ w / 64 % 2 ≠ 0)) ∨ (w % 16 = 0xB ∧ w / 16 % 4 = 3)

/-- All the decoder can answer for a word: ILLEGAL by R85, or the instruction of a word of R87. -/
theorem decodeCmd_cases (w : Nat) :
    (IllegalWord w ∧ decodeCmd w = .illegal w) ∨ (¬IllegalWord w ∧ IsLegal w (decodeCmd w)) := by
  have hconfig := decodeConfig_eq_none_iff _ (Nat.mod_lt (w / 16) (by decide)) _ (Nat.mod_lt (w / 64) (by decide))
  have hopcode := decodeOp_eq_none_iff _ (Nat.mod_lt w (by decide))
  unfold decodeCmd IllegalWord
  simp only [cmdOp_eq, cmdVar_eq, cmdAutor_eq, cmdRsv_eq]
  split
  next hrsv => exact .inl ⟨by omega, rfl⟩
  next hrsv =>
    split
    next hop =>
      cases h : decodeConfig (w / 16 % 4) (w / 64 % 2) with
      | none => exact .inl ⟨.inr (.inr (.inr (.inr ⟨hop, hconfig.1 h⟩))), rfl⟩
      | some i =>
        have hvar : w / 16 % 4 ≠ 3 := fun hvar => by simp [hconfig.2 hvar] at h
        have hw : 0xB + 16 * (w / 16 % 4) + 64 * (w / 64 % 2) = w := by omega
        exact .inr ⟨by omega, hw ▸ isLegal_of_decodeConfig h⟩
    next hop =>
      split
      next hfields => exact .inl ⟨by omega, rfl⟩
      next hfields =>
        cases h : decodeOp (w % 16) with
        | none =>
          have hreserved := hopcode.1 h
          exact .inl ⟨by omega, rfl⟩
        | some i =>
          have hassigned : ¬(w % 16 = 0xB ∨ 0xE ≤ w % 16) := fun hreserved => by simp [hopcode.2 hreserved] at h
          have hw : w % 16 = w := by omega
          exact .inr ⟨by omega, hw ▸ isLegal_of_decodeOp h⟩

theorem decodeCmd_eq_illegal_iff (w : Nat) : decodeCmd w = .illegal w ↔ IllegalWord w := by
  rcases decodeCmd_cases w with ⟨hw, hdecode⟩ | ⟨hw, hlegal⟩
  · exact iff_of_true hdecode hw
  · exact iff_of_false hlegal.ne_illegal hw

theorem decodeCmd_ne_illegal_iff (w : Nat) : decodeCmd w ≠ .illegal w ↔ w ∈ legalWords := by
  refine ⟨fun hne => ?_, decodeCmd_ne_illegal_of_mem w⟩
  rcases decodeCmd_cases w with ⟨-, hdecode⟩ | ⟨-, hlegal⟩
  · exact absurd hdecode hne
  · exact hlegal.mem

/-- R91: the decoder keeps the bits of every PW-bit word, legal or not. -/
theorem decodeCmd_wf_and_encode {w : Nat} (hw : fits Config.PW w = true) :
    (decodeCmd w).wf = true ∧ encode (decodeCmd w) = .cmd w := by
  rcases decodeCmd_cases w with ⟨-, hdecode⟩ | ⟨-, hlegal⟩
  · have hmem : w ∉ legalWords := fun hmem => decodeCmd_ne_illegal_of_mem w hmem hdecode
    rw [hdecode]
    exact ⟨by simp [Instr.wf, hw, hmem], rfl⟩
  · exact ⟨hlegal.wf, hlegal.encode⟩

/-! The decoder on what fits the wires. -/

theorem decode_cmd {w : Nat} (h : (Coded.cmd w).wf = true) : decode (.cmd w) = .ok (decodeCmd w) := if_pos h

theorem decode_port {header : BitVec 6} {data : Nat} (h : fits Config.PW data = true) :
    decode (.port header data) = .ok (decodePort header data) := if_pos h

/-- R88: a header is its `wen` bit before its address. -/
theorem append_getLsbD_setWidth :
    ∀ header : BitVec 6, BitVec.append (BitVec.ofBool (header.getLsbD 5)) (header.setWidth 5) = header := by decide

/-- R91: the decoder keeps the bits of every transaction that the wires carry. -/
theorem decodePort_wf_and_encode {header : BitVec 6} {data : Nat} (h : (Coded.port header data).wf = true) :
    (decodePort header data).wf = true ∧ encode (decodePort header data) = .port header data := by
  simp only [Coded.wf, Bool.and_eq_true, Bool.or_eq_true, beq_iff_eq] at h
  obtain ⟨hfits, hdata⟩ := h
  have hheader := append_getLsbD_setWidth header
  cases hwen : header.getLsbD 5 <;> rw [hwen] at hheader
  · have hzero : data = 0 := hdata.resolve_left (ne_true_of_eq_false hwen)
    rw [decodePort, hwen, hzero]
    exact ⟨rfl, congrArg (Coded.port · 0) hheader⟩
  · rw [decodePort, hwen]
    exact ⟨hfits, congrArg (Coded.port · data) hheader⟩

/-- Decoding an encoded well-formed instruction: R87's words, the illegal words by R85, the two headers of R88. -/
theorem decode_encode {i : Instr} (h : i.wf = true) : decode (encode i) = .ok i := by
  cases i with
  | illegal w =>
    simp only [Instr.wf, Bool.and_eq_true, Bool.not_eq_true', List.contains_eq_mem, decide_eq_false_iff_not] at h
    obtain ⟨hw, hmem⟩ := h
    have hdecode : decodeCmd w = .illegal w := not_not.1 (mt (decodeCmd_ne_illegal_iff w).1 hmem)
    exact (decode_cmd hw).trans (congrArg _ hdecode)
  | hostwr addr data => exact (decode_port h).trans (congrArg _ (decodePort_write addr data))
  | hostrd addr => exact (decode_port rfl).trans (congrArg _ (decodePort_read addr 0))
  | nop | add | mul | pow | pown | gcd | permchk | dexp | kadd | round | iround
  | configGn | configMimc | configMimc5 | configGnAuto | configMimcAuto | configMimc5Auto | enc | dec =>
    exact decode_cmd (Encodes.word_fits (by decide))

end Sys2Proof.Laws
end

section
/-! SUPPORT. Which outcomes an instruction can have (R91, R186). -/

namespace Sys2Proof.Laws

open Sys2Proof.Machine

variable {s : State}

/-! The commands that always answer a next state. -/

theorem withWidth_next {rule : Nat → Result} (h : ∃ t, rule s.width = .next t) : ∃ t, withWidth s rule = .next t := by
  rcases withWidth_cases s rule with ⟨-, -, heq⟩ | ⟨-, heq⟩
  · rwa [heq]
  · exact ⟨_, heq⟩

theorem plainCommand_next (s : State) (value : Nat → Nat) : ∃ t, plainCommand s value = .next t :=
  withWidth_next ⟨_, rfl⟩

theorem fieldCommand_next (s : State) (value : Nat → Nat → Nat) : ∃ t, fieldCommand s value = .next t := by
  rcases fieldCommand_cases s value with ⟨p, -, -, -, heq⟩ | ⟨-, heq⟩
  · exact ⟨_, heq⟩
  · exact ⟨_, heq⟩

theorem execPermchk_next (s : State) : ∃ t, execPermchk s = .next t := withWidth_next ⟨_, rfl⟩

theorem execDexp_next (s : State) : ∃ t, execDexp s = .next t := by
  refine withWidth_next ?_
  cases dexp s.e s.width with
  | none => exact ⟨_, rfl⟩
  | some d => exact ⟨_, rfl⟩

theorem configure_next (v : Variant) (auto : Bool) (s : State) : ∃ t, configure v auto s = .next t := by
  rcases configure_cases v auto s with ⟨c, -, heq⟩ | ⟨d, -, -, -, -, -, -, -, -, heq⟩
  · exact ⟨_, heq⟩
  · exact ⟨_, heq⟩

/-! The fault of ENC and DEC (R186). -/

/-- The rounds stop only at an entry of the order that no host write has reached. -/
theorem runRounds_error {n p k x st i : Nat} {rc : Memory} {order : List Nat}
    (h : runRounds n p rc k x order st = .error i) : i ∈ order ∧ Memory.read rc i = none := by
  induction order generalizing st with
  | nil => cases h
  | cons j order ih =>
    simp only [runRounds] at h
    split at h
    next hread =>
      cases h
      exact ⟨List.mem_cons_self, hread⟩
    next => exact (ih h).imp_left (List.mem_cons_of_mem j)

theorem lt_of_mem_encOrder {r i : Nat} (h : i ∈ encOrder r) : i < r := List.mem_range.1 h

theorem lt_of_mem_decOrder {r i : Nat} (h : i ∈ decOrder r) : i < r := by
  obtain ⟨j, hj, rfl⟩ := List.mem_map.1 h
  have hj := List.mem_range.1 hj
  split <;> omega

/-- A cipher command answers a next state, or faults on an unwritten entry of its order; entry 0 is none (R32). -/
theorem cipherCommand_next_or_fault {order : List Nat} {r : Nat} (horder : ∀ i ∈ order, i < r) (x : Nat) (s : State) :
    (∃ t, cipherCommand order x s = .next t) ∨
    ∃ j, 1 ≤ j ∧ j < r ∧ Memory.read s.rc j = none ∧ cipherCommand order x s = .fault (.rcEntryUnwritten j) := by
  rcases cipherCommand_cases order x s with ⟨c, -, heq⟩ | ⟨p, -, -, -, -, ⟨j, hrun, heq⟩ | ⟨st, -, heq⟩⟩
  · exact .inl ⟨_, heq⟩
  · obtain ⟨hmem, hread⟩ := runRounds_error hrun
    have hpos : j ≠ 0 := by
      rintro rfl
      cases hread
    exact .inr ⟨j, Nat.one_le_iff_ne_zero.2 hpos, horder j hmem, hread, heq⟩
  · exact .inl ⟨_, heq⟩

/-- Every instruction but ENC and DEC answers a next state in every state. -/
theorem exec_next {i : Instr} (henc : i ≠ .enc) (hdec : i ≠ .dec) (s : State) : ∃ t, exec i s = .next t := by
  cases i with
  | nop | illegal | hostwr | hostrd => exact ⟨_, rfl⟩
  | add | kadd | gcd => simp only [exec, execAdd, execKadd, execGcd, plainCommand_next]
  | mul | pow | pown | round | iround =>
    simp only [exec, execMul, execPow, execPown, execRound, execIround, fieldCommand_next]
  | permchk => exact execPermchk_next s
  | dexp => exact execDexp_next s
  | configGn | configMimc | configMimc5 | configGnAuto | configMimcAuto | configMimc5Auto =>
    exact configure_next _ _ s
  | enc => exact absurd rfl henc
  | dec => exact absurd rfl hdec

end Sys2Proof.Laws
end

section
/-! SUPPORT. The write of one round constant (R103). -/

namespace Sys2Proof.Laws

open Sys2Proof.Machine

/-- R103: a write through RCDATA with an index of 1 to RMAX-1. -/
theorem rcWrite_inside {s : State} (h1 : 1 ≤ s.rcidx) (hmax : s.rcidx < Config.RMAX) {v : Nat}
    (hv : v < 2 ^ Config.NMAX) : rcWrite v s = { s with rc := Memory.insert s.rc s.rcidx v, cfgv := false } := by
  rw [rcWrite, if_pos ⟨h1, hmax⟩, trunc_of_lt hv]
  rfl

end Sys2Proof.Laws
end

section
/-! The statements on the encoding (30_encoding.md). -/

namespace Sys2Proof.Proofs

open Sys2Proof.Machine Sys2Proof.Laws

/-- Settles O15: each coded form is a word of R87, a word of R85, or a header of R88. -/
theorem decodeOfEncode : Obligations.DecodeOfEncode := fun _ => decode_encode

/-- Settles O13: R85's condition holds in just the branches of the decoder that answer ILLEGAL. -/
theorem illegalWordsCompleteWithError : Obligations.IllegalWordsCompleteWithError :=
  ⟨decodeCmd_eq_illegal_iff, fun _ s => raiseError_eq .illegalCmd s⟩

/-- Settles O14: the words that the opcode map and CONFIG's fields know are those of R87. -/
theorem legalWordsAreNineteen : Obligations.LegalWordsAreNineteen := decodeCmd_ne_illegal_iff

/-- Settles O16: a word and a header are each the sum of the fields that the decoder reads. -/
theorem encodeOfDecode : Obligations.EncodeOfDecode := by
  intro c hc
  cases c with
  | cmd w => exact ⟨_, decode_cmd hc, decodeCmd_wf_and_encode hc⟩
  | port header data =>
    have hfits : fits Config.PW data = true := (Bool.and_eq_true_iff.1 hc).1
    exact ⟨_, decode_port hfits, decodePort_wf_and_encode hc⟩

/-- Settles O34: the first edge sets RCIDX, the second writes the entry that it selects. -/
theorem ldrcLoadsEntry : Obligations.LdrcLoadsEntry := by
  intro s i v rest hidle h1 hmax hi hv hport
  have hindex : step s = .next { s with port := ⟨false, .write 0x0C#5 v⟩ :: rest, rcidx := i } :=
    step_idle_write hidle hi hport
  have hdata := step_idle_write (s := { s with port := ⟨false, .write 0x0C#5 v⟩ :: rest, rcidx := i }) hidle
    (lt_two_pow_of_le hv NMAX_le_PW) rfl
  have hentry : hostWriteIdle 0x0C#5 v { s with rcidx := i, port := rest } =
      { s with rc := Memory.insert s.rc i v, rcidx := i, cfgv := false, port := rest } :=
    rcWrite_inside (s := { s with rcidx := i, port := rest }) h1 hmax hv
  refine ⟨_, _, hindex, hdata.trans (congrArg _ hentry), ?_, rfl, rfl, fun j hj => ?_, rfl⟩
  · rw [read_insert h1, if_pos rfl]
  · rw [read_insert h1, if_neg hj]

/-- Settles O58: ENC and DEC read no entry outside 0 to ROUNDS - 1, and the other instructions read none. -/
theorem onlyCipherCommandsCanFault : Obligations.OnlyCipherCommandsCanFault := by
  intro i s
  by_cases henc : i = .enc
  · subst henc
    exact (cipherCommand_next_or_fault (fun _ => lt_of_mem_encOrder) s.e s).imp_right (⟨.inl rfl, ·⟩)
  · by_cases hdec : i = .dec
    · subst hdec
      exact (cipherCommand_next_or_fault (fun _ => lt_of_mem_decOrder) s.d s).imp_right (⟨.inr rfl, ·⟩)
    · exact .inl (exec_next henc hdec s)

/-- Settles O12: each of these bits is the coded form of a well-formed instruction. -/
theorem wordsDecodeAsWritten : Obligations.WordsDecodeAsWritten :=
  ⟨decode_encode (i := .nop) rfl, decode_encode (i := .mul) rfl, decode_encode (i := .dexp) rfl,
    decode_encode (i := .round) rfl, decode_encode (i := .configMimc) rfl,
    decode_encode (i := .configMimc5Auto) rfl, decode_encode (i := .enc) rfl,
    decode_encode (i := .illegal 0x3B) (by decide), decode_encode (i := .hostwr 0x07#5 0x1E) (by decide),
    decode_encode (i := .hostrd 0x06#5) rfl⟩

end Sys2Proof.Proofs
end

section
/-! SUPPORT. The host's accesses in an idle unit: a write as its address's effect (R100), and RC through RCDATA, inside and
outside the indices that reach an entry (R103, R104). -/

namespace Sys2Proof.Laws

open Sys2Proof.Machine

variable {s : State}

/-- R100: while BUSY = 0, a host write of PW-bit data is the effect that its address has. -/
theorem exec_hostwr_idle (hidle : s.pend = none) {v : Nat} (hv : v < 2 ^ Config.PW) (addr : Addr) :
    exec (.hostwr addr v) s = .next (hostWriteIdle addr v s) := by
  rw [exec_hostwr, hostWrite_idle hidle, trunc_of_lt hv]

/-- R103 for data of any width: the entry takes the low NMAX bits. -/
theorem rcWrite_inside_mod (h1 : 1 ≤ s.rcidx) (hmax : s.rcidx < Config.RMAX) (v : Nat) :
    rcWrite v s = { s with rc := Memory.insert s.rc s.rcidx (v % 2 ^ Config.NMAX), cfgv := false } := by
  rw [rcWrite, if_pos ⟨h1, hmax⟩, trunc_eq_mod, State.clearCfgv]

/-- R103: an index of 0 or at least RMAX writes nothing and leaves CFGV alone. -/
theorem rcWrite_outside (h : s.rcidx = 0 ∨ Config.RMAX ≤ s.rcidx) (v : Nat) : rcWrite v s = s :=
  if_neg (by omega)

/-- R104: an index of 0 or at least RMAX reads as 0. -/
theorem rcRead_outside (h : s.rcidx = 0 ∨ Config.RMAX ≤ s.rcidx) : rcRead s = 0 := by
  rcases h with hzero | hmax
  · exact if_pos hzero
  · rw [rcRead, if_neg (Nat.not_lt.2 hmax), ite_self]

/-- R104: an index of 1 to RMAX-1 reads its entry. -/
theorem rcRead_written (h1 : 1 ≤ s.rcidx) (hmax : s.rcidx < Config.RMAX) {x : Nat}
    (hread : Memory.read s.rc s.rcidx = some x) : rcRead s = x := by
  rw [rcRead, if_neg (Nat.ne_of_gt h1), if_pos hmax, hread, Option.getD_some]

/-- R50: an entry that no write has reached reads as some NMAX-bit value. -/
theorem rcRead_unwritten_lt (h1 : 1 ≤ s.rcidx) (hmax : s.rcidx < Config.RMAX)
    (hread : Memory.read s.rc s.rcidx = none) : rcRead s < 2 ^ Config.NMAX := by
  rw [rcRead, if_neg (Nat.ne_of_gt h1), if_pos hmax, hread, Option.getD_none]
  exact trunc_lt _ _

end Sys2Proof.Laws
end

section
/-! The statements on host access (40_host_access.md). -/

namespace Sys2Proof.Proofs

open Sys2Proof.Machine Sys2Proof.Laws

/-- Settles O21: the entry that RCIDX selects is inserted, and read after write tells it from every other one. -/
theorem writeThroughRcdata : Obligations.WriteThroughRcdata := by
  intro v s hidle hv
  have hwrite : exec (.hostwr 0x0C#5 v) s = .next (rcWrite v s) := exec_hostwr_idle hidle hv 0x0C#5
  refine ⟨fun h1 hmax => ?_, fun hout => by rw [hwrite, rcWrite_outside hout]⟩
  refine ⟨Memory.insert s.rc s.rcidx (v % 2 ^ Config.NMAX), by rw [hwrite, rcWrite_inside_mod h1 hmax], ?_,
    fun j hj => ?_⟩
  · rw [read_insert h1, if_pos rfl]
  · rw [read_insert h1, if_neg hj]

/-- Settles O22: a read records `hostRead` of the address, which at each fixed one but RCDATA is its register, STATUS
or 0. -/
theorem hostReadReturns : Obligations.HostReadReturns := by
  intro addr s
  refine ⟨hostRead addr s, exec_hostrd addr s, ?_, ?_, ?_, ?_, ?_, ?_, ?_, ?_, ?_, ?_, ?_, ?_, ?rcdata,
    fun h => hostRead_reserved h s⟩
  case rcdata =>
    rintro rfl
    exact ⟨fun h => rcRead_outside (.inl h), fun h => rcRead_outside (.inr h),
      fun h1 hmax => ⟨fun _ => rcRead_written h1 hmax, rcRead_unwritten_lt h1 hmax⟩⟩
  all_goals
    rintro rfl
    rfl

/-- Settles O18: CMD's effect is to accept the word, with LAT taken at the operands of that moment. -/
theorem writeToCmdAccepts : Obligations.WriteToCmdAccepts := fun _ _ hidle hw => exec_hostwr_idle hidle hw 0x00#5

/-- Settles O19: each register takes the data whole or truncated to its own width. -/
theorem writeToRegisters : Obligations.WriteToRegisters := by
  intro v s hidle hv
  simp only [exec_hostwr_idle hidle hv, ← trunc_eq_mod]
  exact ⟨rfl, rfl, rfl, rfl, rfl, rfl, rfl, rfl, rfl⟩

/-- Settles O24: NOP is the completion that every command makes, and reads no WIDTH. -/
theorem nopCompletes : Obligations.NopCompletes := fun _ => rfl

end Sys2Proof.Proofs
end

section
/-! SUPPORT. The field multiplier as multiplication modulo P (R123, R124, G1): the class of an integer in GF(2)[x] modulo P,
and the ring laws that the classes carry over. -/

namespace Sys2Proof.Laws

open Polynomial

/-- The class of the integer `c`, read as a polynomial (R10), modulo the polynomial `p`. -/
noncomputable def residue (p c : Nat) : AdjoinRoot (toPoly p) := AdjoinRoot.mk (toPoly p) (toPoly c)

@[simp] theorem residue_zero (p : Nat) : residue p 0 = 0 := by simp [residue]

@[simp] theorem residue_one (p : Nat) : residue p 1 = 1 := by
  have hone : toPoly 1 = 1 := toPoly_two_pow 0
  rw [residue, hone, map_one]

@[simp] theorem residue_self (p : Nat) : residue p p = 0 := AdjoinRoot.mk_self

@[simp] theorem residue_xor (p a b : Nat) : residue p (a ^^^ b) = residue p a + residue p b := by simp [residue]

@[simp] theorem residue_clmul (p a b : Nat) : residue p (clmul a b) = residue p a * residue p b := by simp [residue]

theorem residue_polymod (c : Nat) {p : Nat} (hp : p ≠ 0) : residue p (polymod c p) = residue p c := by
  rw [residue, residue, AdjoinRoot.mk_eq_mk, toPoly_polymod c hp]
  exact dvd_modByMonic_sub _ _

/-- A number between 2^n and 2^(n+1) is a polynomial of degree n. -/
theorem log2_of_degree {n p : Nat} (hlo : 2 ^ n ≤ p) (hhi : p < 2 ^ (n + 1)) : p ≠ 0 ∧ p.log2 = n := by
  have hp : p ≠ 0 := ((Nat.two_pow_pos n).trans_le hlo).ne'
  exact ⟨hp, (Nat.log2_eq_iff hp).2 ⟨hlo, hhi⟩⟩

/-- Integers below 2^n are told apart by their classes modulo a polynomial of degree n or more. -/
theorem eq_of_residue_eq {n p a b : Nat} (hlo : 2 ^ n ≤ p) (ha : a < 2 ^ n) (hb : b < 2 ^ n)
    (h : residue p a = residue p b) : a = b := by
  have hp : p ≠ 0 := ((Nat.two_pow_pos n).trans_le hlo).ne'
  have hdvd : toPoly p ∣ toPoly a - toPoly b := AdjoinRoot.mk_eq_mk.1 h
  rw [CharTwo.sub_eq_add, ← toPoly_xor] at hdvd
  by_contra hne
  have hxor : a ^^^ b ≠ 0 := Nat.xor_eq_zero_iff.not.2 hne
  have hlt : (a ^^^ b).log2 < n := (Nat.log2_lt hxor).2 (Nat.xor_lt_two_pow ha hb)
  have hdeg : n ≤ p.log2 := (Nat.le_log2 hp).2 hlo
  refine hxor ((toPoly_eq_zero_iff _).1 (eq_zero_of_dvd_of_natDegree_lt hdvd ?_))
  rw [natDegree_toPoly, natDegree_toPoly]
  exact hlt.trans_le hdeg

/-! The loop of R123. -/

/-- R123: one pass multiplies x by the polynomial x, modulo P. -/
theorem residue_gfMul_reduce (n p x : Nat) :
    residue p (if (x * 2).testBit n then x * 2 ^^^ p else x * 2) = residue p x * AdjoinRoot.root (toPoly p) := by
  have hpoly : toPoly (x * 2) = toPoly x * X := by simpa using toPoly_mul_two_pow x 1
  have hdouble : residue p (x * 2) = residue p x * AdjoinRoot.root (toPoly p) := by
    rw [residue, hpoly, map_mul, AdjoinRoot.mk_X, residue]
  split <;> simp [hdouble]

/-- A polynomial is its constant term and a multiple of the polynomial x. -/
theorem toPoly_eq_bit_add (c : Nat) : toPoly c = (if c.testBit 0 then 1 else 0) + toPoly (c / 2) * X := by
  ext i
  cases i <;> cases h : c.testBit 0 <;> simp [h, coeff_one, Nat.testBit_succ]

/-- R123: y is its lowest bit and what the next pass sees. -/
theorem residue_eq_bit_add (p y : Nat) :
    residue p y = (if y.testBit 0 then 1 else 0) + residue p (y / 2) * AdjoinRoot.root (toPoly p) := by
  have hmk := congrArg (AdjoinRoot.mk (toPoly p)) (toPoly_eq_bit_add y)
  simpa [residue, apply_ite] using hmk

/-- R123's loop adds x * y to the accumulator, modulo P: each pass takes the term of y's lowest bit. -/
theorem residue_gfMulLoop {n p fuel acc x y : Nat} (hy : y < 2 ^ fuel) :
    residue p (gfMulLoop n p fuel acc x y) = residue p acc + residue p x * residue p y := by
  induction fuel generalizing acc x y with
  | zero =>
    obtain rfl : y = 0 := by omega
    simp [gfMulLoop]
  | succ fuel ih =>
    rw [gfMulLoop]
    split
    next hzero => rcases hzero with rfl | rfl <;> simp
    next =>
      rw [ih (by omega), residue_gfMul_reduce, residue_eq_bit_add p y]
      split
      · rw [residue_xor]
        ring
      · ring

theorem residue_gfMul {n p b : Nat} (a : Nat) (hb : b < 2 ^ n) :
    residue p (gfMul n p a b) = residue p a * residue p b := by
  rw [gfMul, residue_gfMulLoop hb, residue_zero, zero_add]

/-! The laws of the product, for every P with bit n the highest set. -/

section
variable {n p a b c : Nat} (hn : 1 ≤ n) (hlo : 2 ^ n ≤ p) (hhi : p < 2 ^ (n + 1))
include hlo hhi

theorem gfMul_lt_of_degree (ha : a < 2 ^ n) (b : Nat) : gfMul n p a b < 2 ^ n :=
  gfMulLoop_lt hlo hhi (Nat.two_pow_pos n) ha

/-- The product is the one value below 2^n in its class. -/
theorem gfMul_eq_of_residue (ha : a < 2 ^ n) (hb : b < 2 ^ n) (hc : c < 2 ^ n)
    (h : residue p a * residue p b = residue p c) : gfMul n p a b = c :=
  eq_of_residue_eq hlo (gfMul_lt_of_degree hlo hhi ha b) hc ((residue_gfMul a hb).trans h)

theorem gfMul_comm (ha : a < 2 ^ n) (hb : b < 2 ^ n) : gfMul n p a b = gfMul n p b a :=
  gfMul_eq_of_residue hlo hhi ha hb (gfMul_lt_of_degree hlo hhi hb a) (by rw [residue_gfMul b ha, mul_comm])

theorem gfMul_assoc (ha : a < 2 ^ n) (hb : b < 2 ^ n) (hc : c < 2 ^ n) :
    gfMul n p (gfMul n p a b) c = gfMul n p a (gfMul n p b c) := by
  have ha_mul := gfMul_lt_of_degree hlo hhi ha
  have hbc : gfMul n p b c < 2 ^ n := gfMul_lt_of_degree hlo hhi hb c
  refine gfMul_eq_of_residue hlo hhi (ha_mul b) hc (ha_mul _) ?_
  rw [residue_gfMul a hb, residue_gfMul a hbc, residue_gfMul b hc, mul_assoc]

theorem gfMul_xor_right (ha : a < 2 ^ n) (hb : b < 2 ^ n) (hc : c < 2 ^ n) :
    gfMul n p a (b ^^^ c) = gfMul n p a b ^^^ gfMul n p a c := by
  have hlt := gfMul_lt_of_degree hlo hhi ha
  refine gfMul_eq_of_residue hlo hhi ha (Nat.xor_lt_two_pow hb hc) (Nat.xor_lt_two_pow (hlt b) (hlt c)) ?_
  rw [residue_xor, residue_xor, residue_gfMul a hb, residue_gfMul a hc, mul_add]

theorem gfMul_zero_left (hb : b < 2 ^ n) : gfMul n p 0 b = 0 :=
  gfMul_eq_of_residue hlo hhi (Nat.two_pow_pos n) hb (Nat.two_pow_pos n) (by simp)

theorem gfMul_zero_right (ha : a < 2 ^ n) : gfMul n p a 0 = 0 :=
  gfMul_eq_of_residue hlo hhi ha (Nat.two_pow_pos n) (Nat.two_pow_pos n) (by simp)

/-- R124: the datapath computes the carry-less product reduced by long division. -/
theorem gfMul_eq_polymod_clmul (ha : a < 2 ^ n) (hb : b < 2 ^ n) : gfMul n p a b = polymod (clmul a b) p := by
  obtain ⟨hp, hdeg⟩ := log2_of_degree hlo hhi
  have hlt : polymod (clmul a b) p < 2 ^ n := hdeg ▸ polymod_lt (clmul a b) hp
  exact gfMul_eq_of_residue hlo hhi ha hb hlt (by rw [residue_polymod _ hp, residue_clmul])

include hn

theorem gfMul_one_right (ha : a < 2 ^ n) : gfMul n p a 1 = a :=
  gfMul_eq_of_residue hlo hhi ha (Nat.one_lt_two_pow (by omega)) ha (by simp)

theorem gfMul_one_left (hb : b < 2 ^ n) : gfMul n p 1 b = b :=
  gfMul_eq_of_residue hlo hhi (Nat.one_lt_two_pow (by omega)) hb hb (by simp)

end

end Sys2Proof.Laws
end

section
/-! SUPPORT. Powers at a width of the table (R125 to R129): both loops compute the power modulo P, and the classes modulo P
are a field of 2^n elements. -/

namespace Sys2Proof.Laws

section
variable {n p a : Nat} (h : Config.IRRED n = some p)
include h

theorem gfPow_lt (ha : a < 2 ^ n) (e : Nat) : gfPow n p a e < 2 ^ n := by
  cases e with
  | zero => exact one_lt_two_pow_of_IRRED h
  | succ e => exact gfMul_lt h ha _

/-- R13: `gf_pow_n` is the power modulo P. -/
theorem residue_gfPow (ha : a < 2 ^ n) (e : Nat) : residue p (gfPow n p a e) = residue p a ^ e := by
  induction e with
  | zero => simp [gfPow]
  | succ e ih => rw [gfPow, residue_gfMul a (gfPow_lt h ha e), ih, pow_succ']

/-- The power is the one value below 2^n in its class. -/
theorem gfPow_eq_of_residue {c e : Nat} (ha : a < 2 ^ n) (hc : c < 2 ^ n) (hpow : residue p a ^ e = residue p c) :
    gfPow n p a e = c :=
  eq_of_residue_eq (IRRED_degree h).1 (gfPow_lt h ha e) hc ((residue_gfPow h ha e).trans hpow)

/-! The loops of R125 and R126. -/

/-- R125's loop multiplies its result by base^k, modulo P: each pass takes the factor of k's lowest bit. -/
theorem residue_sqMulLoop {fuel res base k : Nat} (hbase : base < 2 ^ n) (hk : k < 2 ^ fuel) :
    residue p (sqMulLoop n p fuel res base k) = residue p res * residue p base ^ k := by
  induction fuel generalizing res base k with
  | zero =>
    obtain rfl : k = 0 := by omega
    simp [sqMulLoop]
  | succ fuel ih =>
    rw [sqMulLoop]
    split
    next hzero => simp [hzero]
    next =>
      rw [ih (gfMul_lt h hbase base) (by omega), residue_gfMul base hbase, ← pow_two, ← pow_mul]
      split
      next hodd =>
        have hk2 : 2 * (k / 2) + 1 = k := by
          rw [Nat.testBit_zero, decide_eq_true_eq] at hodd
          omega
        rw [residue_gfMul res hbase, mul_assoc, ← pow_succ', hk2]
      next heven =>
        have hk2 : 2 * (k / 2) = k := by
          rw [Nat.testBit_zero, decide_eq_true_eq] at heven
          omega
        rw [hk2]

/-- R127: square-and-multiply gives the product of e copies of a. -/
theorem powSquare_eq_gfPow (ha : a < 2 ^ n) (e : Nat) : powSquare n p a e = gfPow n p a e := by
  refine (gfPow_eq_of_residue h ha (powSquare_lt h ha e) ?_).symm
  rw [powSquare, residue_sqMulLoop h ha (lt_two_pow_bitLen e), residue_one, one_mul]

omit h in
/-- R126's loop multiplies its result by a^e, modulo P. -/
theorem residue_powNaiveLoop (ha : a < 2 ^ n) (e res : Nat) :
    residue p (powNaiveLoop n p a e res) = residue p res * residue p a ^ e := by
  induction e generalizing res with
  | zero => simp [powNaiveLoop]
  | succ e ih => rw [powNaiveLoop, ih, residue_gfMul res ha, mul_assoc, ← pow_succ']

/-- R127: naive repeated multiplication gives the product of e copies of a. -/
theorem powNaive_eq_gfPow (ha : a < 2 ^ n) (e : Nat) : powNaive n p a e = gfPow n p a e := by
  refine (gfPow_eq_of_residue h ha (powNaive_lt h a e) ?_).symm
  rw [powNaive, residue_powNaiveLoop ha, residue_one, one_mul]

/-! Closure (R129). -/

omit h in
/-- The classes modulo a polynomial of degree n are 2^n in number. -/
theorem card_residues (hlo : 2 ^ n ≤ p) (hhi : p < 2 ^ (n + 1)) : Nat.card (AdjoinRoot (toPoly p)) = 2 ^ n := by
  obtain ⟨hp, hdeg⟩ := log2_of_degree hlo hhi
  have := (monic_toPoly hp).finite_adjoinRoot
  rw [Module.natCard_eq_pow_finrank (K := ZMod 2), Nat.card_zmod,
    (AdjoinRoot.powerBasis (monic_toPoly hp).ne_zero).finrank, AdjoinRoot.powerBasis_dim, natDegree_toPoly, hdeg]

/-- R129: modulo an irreducible P the classes are a field, so the order of a nonzero one divides 2^n - 1. -/
theorem residue_pow_groupOrder (ha : a < 2 ^ n) (ha0 : a ≠ 0) : residue p a ^ (2 ^ n - 1) = 1 := by
  obtain ⟨hlo, hhi⟩ := IRRED_degree h
  have hcard := card_residues hlo hhi
  have : Fact (Irreducible (toPoly p)) := ⟨IRRED_irreducible h⟩
  have : Finite (AdjoinRoot (toPoly p)) := Nat.finite_of_card_ne_zero (hcard ▸ (Nat.two_pow_pos n).ne')
  have := Fintype.ofFinite (AdjoinRoot (toPoly p))
  have hne : residue p a ≠ 0 := fun h0 =>
    ha0 (eq_of_residue_eq hlo ha (Nat.two_pow_pos n) (h0.trans (residue_zero p).symm))
  rw [← hcard, ← Fintype.card_eq_nat_card]
  exact FiniteField.pow_card_sub_one_eq_one _ hne

/-- R129: an exponent of a nonzero value counts modulo 2^n - 1. -/
theorem gfPow_mod_groupOrder (ha : a < 2 ^ n) (ha0 : a ≠ 0) (e : Nat) :
    gfPow n p a e = gfPow n p a (e % (2 ^ n - 1)) := by
  refine gfPow_eq_of_residue h ha (gfPow_lt h ha _) ?_
  rw [residue_gfPow h ha, ← pow_eq_pow_mod e (residue_pow_groupOrder h ha ha0)]

theorem gfPow_groupOrder (ha : a < 2 ^ n) (ha0 : a ≠ 0) : gfPow n p a (2 ^ n - 1) = 1 :=
  gfPow_eq_of_residue h ha (one_lt_two_pow_of_IRRED h) (by rw [residue_pow_groupOrder h ha ha0, residue_one])

theorem gfPow_zero_base {e : Nat} (he : 1 ≤ e) : gfPow n p 0 e = 0 :=
  gfPow_eq_of_residue h (Nat.two_pow_pos n) (Nat.two_pow_pos n) (by rw [residue_zero, zero_pow (by omega)])

theorem gfPow_two_pow (ha : a < 2 ^ n) : gfPow n p a (2 ^ n) = a := by
  rcases eq_or_ne a 0 with rfl | ha0
  · exact gfPow_zero_base h (Nat.two_pow_pos n)
  · refine gfPow_eq_of_residue h ha ha ?_
    rw [← Nat.sub_add_cancel (Nat.two_pow_pos n), pow_succ, residue_pow_groupOrder h ha ha0, one_mul]

end

end Sys2Proof.Laws
end

section
/-! SUPPORT. The field commands: what they write when their checks pass, and their result as a function of the width and the
operands alone (R120). -/

namespace Sys2Proof.Laws

open Sys2Proof.Machine

/-! The meaning of each instruction. -/

theorem exec_add (s : State) : exec .add s = plainCommand s fun n => fe n s.a ^^^ fe n s.b := rfl

theorem exec_kadd (s : State) : exec .kadd s = plainCommand s fun n => fe n s.a ^^^ fe n s.k := rfl

theorem exec_mul (s : State) : exec .mul s = fieldCommand s fun n p => gfMul n p (fe n s.a) (fe n s.b) := rfl

theorem exec_pow (s : State) : exec .pow s = fieldCommand s fun n p => powSquare n p (fe n s.a) s.e := rfl

theorem exec_pown (s : State) : exec .pown s = fieldCommand s fun n p => powNaive n p (fe n s.a) s.e := rfl

/-! A command whose checks pass. -/

section
variable {s : State} (h1 : 1 ≤ s.width) (hmax : s.width ≤ Config.NMAX)
include h1 hmax

theorem plainCommand_inside (value : Nat → Nat) : plainCommand s value = .next (s.finishResult (value s.width)) :=
  withWidth_inside h1 hmax _

theorem fieldCommand_inside {p : Nat} (hp : Config.IRRED s.width = some p) (value : Nat → Nat → Nat) :
    fieldCommand s value = .next (s.finishResult (value s.width p)) :=
  (withWidth_inside h1 hmax _).trans (withTable_some hp s _)

end

/-! The result as a function of the operands. -/

/-- The completion with a result in R (R26), or, where the checks leave none, with their error (R107, R121). -/
def completeWith (s : State) : Option Nat → State
  | none => s.finishError .unsupportedWidth
  | some v => s.finishResult v

/-- What the command `i` leaves in R is a function of n, fe(A), fe(B) and E, with n-bit values. -/
structure ResultOfOperands (i : Instr) (f : Nat → Nat → Nat → Nat → Option Nat) : Prop where
  exec_eq : ∀ s, exec i s = .next (completeWith s (f s.width (fe s.width s.a) (fe s.width s.b) s.e))
  lt : ∀ {n a b e v}, a < 2 ^ n → b < 2 ^ n → f n a b e = some v → v < 2 ^ n

/-- The result of R107's width check alone. -/
def widthResult (n : Nat) (value : Nat) : Option Nat := if widthInRange n then some value else none

/-- The result of R107's width check and R121's table check. -/
def tableResult (n : Nat) (value : Nat → Nat) : Option Nat :=
  if widthInRange n then (Config.IRRED n).map value else none

theorem plainCommand_eq (s : State) (value : Nat → Nat) :
    plainCommand s value = .next (completeWith s (widthResult s.width (value s.width))) := by
  unfold plainCommand withWidth widthResult
  split <;> rfl

theorem fieldCommand_eq (s : State) (value : Nat → Nat → Nat) :
    fieldCommand s value = .next (completeWith s (tableResult s.width (value s.width))) := by
  unfold fieldCommand withWidth tableResult
  split
  · cases hp : Config.IRRED s.width with
    | none => exact withTable_none hp s _
    | some p => exact withTable_some hp s _
  · rfl

theorem widthResult_some {n value v : Nat} (h : widthResult n value = some v) : value = v :=
  Option.some.inj (Option.ite_none_right_eq_some.1 h).2

theorem tableResult_some {n v : Nat} {value : Nat → Nat} (h : tableResult n value = some v) :
    ∃ p, Config.IRRED n = some p ∧ value p = v :=
  Option.map_eq_some_iff.1 (Option.ite_none_right_eq_some.1 h).2

/-- A command by the table has such a function when its value, an n-bit one, is computed from the operands. -/
theorem resultOfOperands_fieldCommand {i : Instr} {value : Nat → Nat → Nat → Nat → Nat → Nat}
    (hexec : ∀ s, exec i s = fieldCommand s fun n p => value n p (fe n s.a) (fe n s.b) s.e)
    (hlt : ∀ {n p a b e}, Config.IRRED n = some p → a < 2 ^ n → value n p a b e < 2 ^ n) :
    ResultOfOperands i fun n a b e => tableResult n fun p => value n p a b e where
  exec_eq s := (hexec s).trans (fieldCommand_eq s _)
  lt ha _ h := by
    obtain ⟨p, hp, rfl⟩ := tableResult_some h
    exact hlt hp ha

theorem resultOfOperands_add : ResultOfOperands .add fun n a b _ => widthResult n (a ^^^ b) where
  exec_eq s := (exec_add s).trans (plainCommand_eq s _)
  lt ha hb h := widthResult_some h ▸ Nat.xor_lt_two_pow ha hb

/-- R120: "Each result depends only on a, b, e, n and P", and P only on n. -/
theorem exists_resultOfOperands {i : Instr} (hi : i ∈ [Instr.add, .mul, .pow, .pown]) :
    ∃ f, ResultOfOperands i f := by
  obtain rfl | rfl | rfl | rfl : i = .add ∨ i = .mul ∨ i = .pow ∨ i = .pown := by simpa using hi
  · exact ⟨_, resultOfOperands_add⟩
  · exact ⟨_, resultOfOperands_fieldCommand (value := fun n p a b _ => gfMul n p a b) exec_mul
      fun hp ha => gfMul_lt hp ha _⟩
  · exact ⟨_, resultOfOperands_fieldCommand (value := fun n p a _ e => powSquare n p a e) exec_pow
      fun hp ha => powSquare_lt hp ha _⟩
  · exact ⟨_, resultOfOperands_fieldCommand (value := fun n p a _ e => powNaive n p a e) exec_pown
      fun hp _ => powNaive_lt hp _ _⟩

end Sys2Proof.Laws
end

section
/-! The statements on field arithmetic (41_field_arithmetic.md). -/

namespace Sys2Proof.Proofs

open Sys2Proof.Machine Sys2Proof.Laws

/-- Settles O9: the product is multiplication of classes modulo P, and values below 2^n are told apart by their classes. -/
theorem fieldMultiplicationRingLaws : Obligations.FieldMultiplicationRingLaws :=
  fun _ _ _ b _ hn hlo hhi ha hb hc =>
    ⟨gfMul_lt_of_degree hlo hhi ha b, gfMul_comm hlo hhi ha hb, gfMul_assoc hlo hhi ha hb hc,
      gfMul_xor_right hlo hhi ha hb hc, gfMul_one_right hn hlo hhi ha⟩

/-- Settles O10: P is irreducible, so the classes modulo P are a field of 2^n elements. -/
theorem fieldClosure : Obligations.FieldClosure :=
  fun _ _ _ h ha => ⟨gfPow_two_pow h ha, gfPow_groupOrder h ha, gfPow_mod_groupOrder h ha, fun _ => gfPow_zero_base h⟩

/-- Settles O36: MUL past its checks, and the corner cases as laws of the product. -/
theorem mulCompletesWithDatapathValue : Obligations.MulCompletesWithDatapathValue := by
  refine ⟨fun s p h1 hmax hp => ?_, fun n p x hn hlo hhi hx => ?_⟩
  · simp only [← fe_eq_mod]
    exact (exec_mul s).trans (fieldCommand_inside h1 hmax hp _)
  · exact ⟨gfMul_zero_left hlo hhi hx, gfMul_zero_right hlo hhi hx, gfMul_one_right hn hlo hhi hx,
      gfMul_one_left hn hlo hhi hx⟩

/-- Settles O37: the datapath's value is the reduced product, both being below 2^n and in one class modulo P. -/
theorem mulIsReducedProduct : Obligations.MulIsReducedProduct := by
  intro s p h1 hmax hp
  obtain ⟨hlo, hhi⟩ := IRRED_degree hp
  simp only [← fe_eq_mod]
  rw [← gfMul_eq_polymod_clmul hlo hhi (fe_lt _ _) (fe_lt _ _)]
  exact (exec_mul s).trans (fieldCommand_inside h1 hmax hp _)

/-- Settles O38: each loop multiplies its result by the power of the class of a that is left to do. -/
theorem powAndPownComplete : Obligations.PowAndPownComplete := by
  intro s p h1 hmax hp
  simp only [← fe_eq_mod]
  constructor
  · rw [← powSquare_eq_gfPow hp (fe_lt _ _)]
    exact (exec_pow s).trans (fieldCommand_inside h1 hmax hp _)
  · rw [← powNaive_eq_gfPow hp (fe_lt _ _)]
    exact (exec_pown s).trans (fieldCommand_inside h1 hmax hp _)

/-- Settles O39: each command completes with a function of the operands, on which the two states agree. -/
theorem fieldResultsDependOnlyOnOperands : Obligations.FieldResultsDependOnlyOnOperands := by
  intro i hi s t s' t' hs ht hwidth he ha hb hserr hterr
  obtain ⟨f, hexec, hlt⟩ := exists_resultOfOperands hi
  simp only [← fe_eq_mod] at ha hb
  rw [hexec] at hs ht
  rw [← hwidth, ← he, ← ha, ← hb] at ht
  cases hs
  cases ht
  cases hv : f s.width (fe s.width s.a) (fe s.width s.b) s.e with
  | none => exact ⟨rfl, nofun, rfl⟩
  | some v => exact ⟨hserr.trans hterr.symm, fun _ => ⟨rfl, hlt (fe_lt _ _) (fe_lt _ _) hv⟩, rfl⟩

/-- Settles O35: ADD and KADD past the width check, the only one they have. -/
theorem addAndKaddComplete : Obligations.AddAndKaddComplete := by
  intro s h1 hmax
  simp only [← fe_eq_mod]
  exact ⟨(exec_add s).trans (plainCommand_inside h1 hmax _), (exec_kadd s).trans (plainCommand_inside h1 hmax _)⟩

end Sys2Proof.Proofs
end

section
/-! SUPPORT. The decryption exponent (R145 to R148): the search's first hit, when there is one, and the power map
that it inverts. -/

namespace Sys2Proof.Laws

/-- R145's search is the first hit in an interval, mapped to its quotient. -/
theorem dexpFrom_eq_find? (e m fuel t : Nat) :
    dexpFrom e m fuel t =
      ((List.range' t fuel).find? fun u => (1 + u * m) % e = 0).map fun u => (1 + u * m) / e := by
  induction fuel generalizing t with
  | zero => rfl
  | succ fuel ih =>
    rw [dexpFrom, List.range'_succ, List.find?_cons]
    split
    next hmod => simp [hmod]
    next hmod => simp [hmod, ih]

/-- R145: no `t` in [1, e) serves. -/
theorem dexp_eq_none_iff (e n : Nat) :
    dexp e n = none ↔ ∀ t, 1 ≤ t → t < e → (1 + t * groupOrder n) % e ≠ 0 := by
  simp only [dexp, dexpFrom_eq_find?, Option.map_eq_none_iff, List.find?_range'_eq_none, Bool.not_eq_true',
    decide_eq_false_iff_not]
  exact ⟨fun h t h1 hlt => h t h1 (by omega), fun h t h1 hlt => h t h1 (by omega)⟩

/-- R145: the value at the smallest `t` in [1, e) that serves. -/
theorem dexp_eq_some_iff (e n d : Nat) :
    dexp e n = some d ↔ ∃ t, 1 ≤ t ∧ t < e ∧ (1 + t * groupOrder n) % e = 0 ∧
      (∀ u, 1 ≤ u → u < t → (1 + u * groupOrder n) % e ≠ 0) ∧ d = (1 + t * groupOrder n) / e := by
  simp only [dexp, dexpFrom_eq_find?, Option.map_eq_some_iff, List.find?_range'_eq_some, List.mem_range'_1,
    decide_eq_true_eq, Bool.not_eq_true', decide_eq_false_iff_not]
  refine exists_congr fun t => ⟨?_, ?_⟩
  · rintro ⟨⟨hmod, ⟨h1, hlt⟩, hmin⟩, rfl⟩
    exact ⟨h1, by omega, hmod, hmin, rfl⟩
  · rintro ⟨h1, hlt, hmod, hmin, rfl⟩
    exact ⟨⟨hmod, ⟨h1, by omega⟩, hmin⟩, rfl⟩

/-- R147: `e` times the decryption exponent is 1 modulo `M_n`. -/
theorem exists_mul_dexp_eq {e n d : Nat} (h : dexp e n = some d) : ∃ t, e * d = 1 + t * groupOrder n := by
  obtain ⟨t, -, -, hmod, -, rfl⟩ := (dexp_eq_some_iff e n d).1 h
  exact ⟨t, Nat.mul_div_cancel' (Nat.dvd_of_mod_eq_zero hmod)⟩

theorem dexp_pos {e n d : Nat} (h : dexp e n = some d) : 1 ≤ d := by
  obtain ⟨t, ht⟩ := exists_mul_dexp_eq h
  refine Nat.pos_of_ne_zero ?_
  rintro rfl
  omega

/-- A common divisor of `e` and `m` divides 1 when `e` divides `1 + t*m`. -/
theorem coprime_of_one_add_mul_mod_eq_zero {e m t : Nat} (h : (1 + t * m) % e = 0) : Nat.Coprime e m := by
  refine Nat.eq_one_of_dvd_one ?_
  have hdvd : Nat.gcd e m ∣ 1 + t * m := (Nat.gcd_dvd_left e m).trans (Nat.dvd_of_mod_eq_zero h)
  exact (Nat.dvd_add_left ((Nat.gcd_dvd_right e m).mul_left t)).1 hdvd

/-- R145, by G3's modular inverse: t = -m^(-1) modulo `e` serves, and is not 0 because `e` is 2 or more. -/
theorem exists_one_add_mul_mod_eq_zero {e m : Nat} (he : 2 ≤ e) (h : Nat.Coprime e m) :
    ∃ t, 1 ≤ t ∧ t < e ∧ (1 + t * m) % e = 0 := by
  obtain ⟨t, hlt, ht⟩ := Nat.exists_mul_mod_eq_of_coprime (e - 1) h.symm (by omega)
  rw [Nat.mod_eq_of_lt (by omega : e - 1 < e), Nat.mul_comm] at ht
  refine ⟨t, Nat.one_le_iff_ne_zero.2 ?_, hlt, ?_⟩
  · rintro rfl
    rw [Nat.zero_mul, Nat.zero_mod] at ht
    omega
  · rw [Nat.add_mod, ht, Nat.mod_eq_of_lt (by omega : 1 < e), Nat.add_sub_cancel' (by omega), Nat.mod_self]

/-- R145: when the search succeeds. -/
theorem exists_dexp_iff (e n : Nat) :
    (∃ d, dexp e n = some d) ↔ 2 ≤ e ∧ Nat.Coprime e (groupOrder n) := by
  constructor
  · rintro ⟨d, hd⟩
    obtain ⟨t, h1, hlt, hmod, -, -⟩ := (dexp_eq_some_iff e n d).1 hd
    exact ⟨by omega, coprime_of_one_add_mul_mod_eq_zero hmod⟩
  · rintro ⟨he, hcop⟩
    obtain ⟨t, h1, hlt, hmod⟩ := exists_one_add_mul_mod_eq_zero he hcop
    exact Option.ne_none_iff_exists'.1 fun hnone => (dexp_eq_none_iff e n).1 hnone t h1 hlt hmod

/-- R129: an exponent that is 1 modulo `M_n` leaves every class as it is, 0 included. -/
theorem residue_pow_one_add_mul_groupOrder {n p x : Nat} (h : Config.IRRED n = some p) (hx : x < 2 ^ n) (t : Nat) :
    residue p x ^ (1 + t * groupOrder n) = residue p x := by
  rcases eq_or_ne x 0 with rfl | hx0
  · rw [residue_zero, zero_pow (by omega)]
  · have hone : residue p x ^ groupOrder n = 1 := residue_pow_groupOrder h hx hx0
    rw [pow_add, pow_one, mul_comm t, pow_mul, hone, one_pow, mul_one]

/-- R147: decryption undoes the power map. -/
theorem gfPow_gfPow_dexp {n p e d x : Nat} (h : Config.IRRED n = some p) (hd : dexp e n = some d) (hx : x < 2 ^ n) :
    gfPow n p (gfPow n p x e) d = x := by
  obtain ⟨t, ht⟩ := exists_mul_dexp_eq hd
  refine gfPow_eq_of_residue h (gfPow_lt h hx e) hx ?_
  rw [residue_gfPow h hx, ← pow_mul, ht, residue_pow_one_add_mul_groupOrder h hx]

end Sys2Proof.Laws
end

section
/-! SUPPORT. The integer commands past their width check. -/

namespace Sys2Proof.Laws

open Sys2Proof.Machine

theorem exec_gcd (s : State) : exec .gcd s = plainCommand s fun n => euclid (fe n s.a) (fe n s.b) := rfl

theorem exec_permchk (s : State) :
    exec .permchk s = withWidth s fun n =>
      .next { s.finishResult (euclid s.e (groupOrder n)) with perm := decide (euclid s.e (groupOrder n) = 1) } := rfl

section
variable {s : State} (h1 : 1 ≤ s.width) (hmax : s.width ≤ Config.NMAX)
include h1 hmax

theorem exec_permchk_inside :
    exec .permchk s = .next { s.finishResult (euclid s.e (groupOrder s.width)) with
      perm := decide (euclid s.e (groupOrder s.width) = 1) } :=
  (exec_permchk s).trans (withWidth_inside h1 hmax _)

theorem exec_dexp_some {d : Nat} (hd : dexp s.e s.width = some d) : exec .dexp s = .next { s.finish with d := d } := by
  rw [exec, execDexp, withWidth_inside h1 hmax]
  simp only [hd]

end

end Sys2Proof.Laws
end

section
/-! The statements on the integer functions (42_number_theory.md). -/

namespace Sys2Proof.Proofs

open Sys2Proof.Machine Sys2Proof.Laws

/-- Settles O5: the loop's value is the gcd, whose laws these are. -/
theorem euclidComputesGcd : Obligations.EuclidComputesGcd := by
  refine ⟨fun p q _ => ?_, fun p => ?_, fun q => ?_, euclid_eq_gcd⟩
  · rw [euclid_eq_gcd, euclid_eq_gcd, Nat.gcd_comm p q, Nat.gcd_rec q p, Nat.gcd_comm]
  · rw [euclid_eq_gcd, Nat.gcd_zero_right]
  · rw [euclid_eq_gcd, Nat.gcd_zero_left]

/-- Settles O6: the search is the first hit of an ascending interval. -/
theorem dexpFindsTheSmallest : Obligations.DexpFindsTheSmallest :=
  fun e n => ⟨dexp_eq_some_iff e n, dexp_eq_none_iff e n⟩

/-- Settles O7: `-M_n^(-1)` modulo `e` serves, and `t < e` bounds the quotient. -/
theorem dexpDefinedAndBounded : Obligations.DexpDefinedAndBounded :=
  fun e n hn => ⟨exists_dexp_iff e n, fun _ hd => ⟨dexp_pos hd, Nat.le_sub_one_of_lt (dexp_lt hn hd)⟩⟩

/-- Settles O11: `e*d` is 1 modulo `M_n`, which is the order of the field's nonzero values. -/
theorem decryptionExponentInverts : Obligations.DecryptionExponentInverts :=
  fun _ _ _ _ _ => gfPow_gfPow_dexp

/-- Settles O40: GCD past the width check, the only one it has. -/
theorem gcdCompletes : Obligations.GcdCompletes := by
  intro s h1 hmax
  rw [← fe_eq_mod, ← fe_eq_mod, ← euclid_eq_gcd]
  exact (exec_gcd s).trans (plainCommand_inside h1 hmax _)

/-- Settles O41: PERMCHK past the width check completes without an error, whatever the verdict. -/
theorem permchkCompletes : Obligations.PermchkCompletes := by
  intro s h1 hmax
  simp only [← euclid_eq_gcd]
  exact exec_permchk_inside h1 hmax

/-- Settles O42: a `t` exists, so the search finds the smallest. -/
theorem dexpCompletes : Obligations.DexpCompletes := by
  intro s h1 hmax he hgcd
  obtain ⟨d, hd⟩ := (exists_dexp_iff s.e s.width).2 ⟨he, hgcd⟩
  obtain ⟨t, ht1, htlt, hmod, hmin, hquot⟩ := (dexp_eq_some_iff s.e s.width d).1 hd
  have hmul : d * s.e = 1 + t * groupOrder s.width := by
    rw [hquot, Nat.div_mul_cancel (Nat.dvd_of_mod_eq_zero hmod)]
  exact ⟨t, d, ht1, htlt, hmul, hmin, exec_dexp_some h1 hmax hd⟩

end Sys2Proof.Proofs
end

section
/-! SUPPORT. ROUND and IROUND (43_mimc_round.md): the sum of the operands, and the two commands past their checks. -/

namespace Sys2Proof.Laws

open Sys2Proof.Machine

/-- What ROUND and IROUND raise to a power: fe(A) XOR fe(K) XOR fe(B) (R161, R162). -/
def roundSum (s : State) : Nat := fe s.width s.a ^^^ fe s.width s.k ^^^ fe s.width s.b

theorem roundSum_eq_mod (s : State) :
    roundSum s = (s.a % 2 ^ s.width) ^^^ (s.k % 2 ^ s.width) ^^^ (s.b % 2 ^ s.width) := by
  simp only [roundSum, fe_eq_mod]

theorem roundSum_lt (s : State) : roundSum s < 2 ^ s.width :=
  Nat.xor_lt_two_pow (Nat.xor_lt_two_pow (fe_lt _ _) (fe_lt _ _)) (fe_lt _ _)

/-- R163: the host's next operands are the result just computed, with K = 0 and B = 0. -/
def feedBack (s : State) : State := { s with a := s.r, k := 0, b := 0 }

theorem roundSum_feedBack {s : State} (hr : s.r < 2 ^ s.width) : roundSum (feedBack s) = s.r := by
  rw [roundSum_eq_mod]
  simp [feedBack, Nat.mod_eq_of_lt hr]

/-- R161: the power "is computed as by POW", whose loop gives `gf_pow_n` (R127). -/
theorem roundPower_eq_gfPow {n p st k c : Nat} (h : Config.IRRED n = some p) (hst : st < 2 ^ n) (hk : k < 2 ^ n)
    (hc : c < 2 ^ n) (x : Nat) : roundPower n p st k c x = gfPow n p (st ^^^ k ^^^ c) x :=
  powSquare_eq_gfPow h (Nat.xor_lt_two_pow (Nat.xor_lt_two_pow hst hk) hc) x

theorem exec_round (s : State) :
    exec .round s = fieldCommand s fun n p => roundPower n p (fe n s.a) (fe n s.k) (fe n s.b) s.e := rfl

theorem exec_iround (s : State) :
    exec .iround s = fieldCommand s fun n p => roundPower n p (fe n s.a) (fe n s.k) (fe n s.b) s.d := rfl

section
variable {s : State} {p : Nat} (h1 : 1 ≤ s.width) (hmax : s.width ≤ Config.NMAX) (hp : Config.IRRED s.width = some p)
include h1 hmax hp

/-- The body that ROUND and IROUND share, past R107's and R121's checks. -/
theorem fieldCommand_roundPower_inside (x : Nat) :
    (fieldCommand s fun n p => roundPower n p (fe n s.a) (fe n s.k) (fe n s.b) x) =
      .next (s.finishResult (gfPow s.width p (roundSum s) x)) := by
  rw [fieldCommand_inside h1 hmax hp, roundPower_eq_gfPow hp (fe_lt _ _) (fe_lt _ _) (fe_lt _ _), roundSum]

theorem exec_round_inside : exec .round s = .next (s.finishResult (gfPow s.width p (roundSum s) s.e)) :=
  (exec_round s).trans (fieldCommand_roundPower_inside h1 hmax hp s.e)

theorem exec_iround_inside : exec .iround s = .next (s.finishResult (gfPow s.width p (roundSum s) s.d)) :=
  (exec_iround s).trans (fieldCommand_roundPower_inside h1 hmax hp s.d)

end

end Sys2Proof.Laws
end

section
/-! The statements on the round datapath (43_mimc_round.md). -/

namespace Sys2Proof.Proofs

open Sys2Proof.Machine Sys2Proof.Laws

/-- Settles O44: past their checks both commands raise one sum of operands, ROUND to E and IROUND to D. -/
theorem roundAndIroundComplete : Obligations.RoundAndIroundComplete := by
  intro s p h1 hmax hp
  rw [← roundSum_eq_mod]
  exact ⟨exec_round_inside h1 hmax hp, exec_iround_inside h1 hmax hp⟩

/-- Settles O45: with K = 0 and B = 0 IROUND's sum is ROUND's result, and raising it to D undoes E (R147). -/
theorem iroundUndoesRound : Obligations.IroundUndoesRound := by
  intro s p h1 hmax hp hd
  have hlt : gfPow s.width p (roundSum s) s.e < 2 ^ s.width := gfPow_lt hp (roundSum_lt s) s.e
  refine ⟨_, _, exec_round_inside h1 hmax hp, exec_iround_inside h1 hmax hp, ?_⟩
  change gfPow s.width p (roundSum (feedBack (s.finishResult _))) s.d = _
  rw [roundSum_feedBack hlt, finishResult_r, ← roundSum_eq_mod]
  exact gfPow_gfPow_dexp hp hd (roundSum_lt s)

end Sys2Proof.Proofs
end

section
/-! SUPPORT. The derived round count (R176): the search stops at the smallest count, which is at most n. -/

namespace Sys2Proof.Laws

/-- R176: `r` is the smallest count of 1 or more with `e^r >= 2^n`. -/
structure IsSmallestCount (e n r : Nat) : Prop where
  pos : 1 ≤ r
  reaches : 2 ^ n ≤ e ^ r
  least : ∀ q, 1 ≤ q → q < r → e ^ q < 2 ^ n

theorem IsSmallestCount.le {e n r q : Nat} (h : IsSmallestCount e n r) (hq1 : 1 ≤ q) (hq : 2 ^ n ≤ e ^ q) : r ≤ q :=
  not_lt.1 fun hlt => absurd (h.least q hq1 hlt) (not_lt.2 hq)

theorem IsSmallestCount.unique {e n r r' : Nat} (h : IsSmallestCount e n r) (h' : IsSmallestCount e n r') : r = r' :=
  Nat.le_antisymm (h.le h'.pos h'.reaches) (h'.le h.pos h.reaches)

/-- R176's search from `r` passes over no count that serves, and stops at one if the end of its range serves. -/
theorem deriveRoundsFrom_spec (e n fuel r : Nat) :
    r ≤ deriveRoundsFrom e n fuel r ∧
    (2 ^ n ≤ e ^ (r + fuel) → 2 ^ n ≤ e ^ deriveRoundsFrom e n fuel r) ∧
    ∀ q, r ≤ q → q < deriveRoundsFrom e n fuel r → e ^ q < 2 ^ n := by
  induction fuel generalizing r with
  | zero => exact ⟨Nat.le_refl r, id, fun q hle hlt => absurd hlt (not_lt.2 hle)⟩
  | succ fuel ih =>
    rw [deriveRoundsFrom]
    split
    next hserves => exact ⟨Nat.le_refl r, fun _ => hserves, fun q hle hlt => absurd hlt (not_lt.2 hle)⟩
    next hfails =>
      obtain ⟨hle, hend, hleast⟩ := ih (r + 1)
      refine ⟨by omega, fun h => hend (by rwa [Nat.add_right_comm]), fun q hrq hq => ?_⟩
      rcases hrq.eq_or_lt with rfl | hlt
      · exact not_le.1 hfails
      · exact hleast q hlt hq

theorem two_pow_le_pow {e : Nat} (he : 2 ≤ e) (n : Nat) : 2 ^ n ≤ e ^ n := Nat.pow_le_pow_left he n

theorem deriveRounds_isSmallestCount {e n : Nat} (he : 2 ≤ e) : IsSmallestCount e n (deriveRounds e n) := by
  obtain ⟨hle, hend, hleast⟩ := deriveRoundsFrom_spec e n n 1
  refine ⟨hle, hend ((two_pow_le_pow he n).trans ?_), hleast⟩
  exact Nat.pow_le_pow_right (by omega) (Nat.le_add_left n 1)

/-- R179: the derived count is at most n. -/
theorem IsSmallestCount.le_width {e n r : Nat} (h : IsSmallestCount e n r) (he : 2 ≤ e) (hn : 1 ≤ n) : r ≤ n :=
  h.le hn (two_pow_le_pow he n)

theorem deriveRounds_eq {e n r : Nat} (he : 2 ≤ e) (h : IsSmallestCount e n r) : deriveRounds e n = r :=
  (deriveRounds_isSmallestCount he).unique h

theorem deriveRounds_two {n : Nat} (hn : 1 ≤ n) : deriveRounds 2 n = n :=
  deriveRounds_eq (Nat.le_refl 2) ⟨hn, Nat.le_refl _, fun _ _ hlt => Nat.pow_lt_pow_right (by decide) hlt⟩

theorem deriveRounds_eq_one {e n : Nat} (he : 2 ≤ e) (h : 2 ^ n ≤ e) : deriveRounds e n = 1 :=
  deriveRounds_eq he ⟨Nat.le_refl 1, by rwa [pow_one], fun q h1 hlt => by omega⟩

end Sys2Proof.Laws
end

section
/-! SUPPORT. CONFIG check by check (R171, R173 to R175, R179), and its commit (R181). -/

namespace Sys2Proof.Laws

open Sys2Proof.Machine

theorem exec_configInstr (v : Variant) (auto : Bool) (s : State) :
    exec (configInstr v auto) s = configure v auto s := by
  cases v <;> cases auto <;> rfl

section
variable {v : Variant} {s : State} (auto : Bool)

theorem configure_outside (h : s.width = 0 ∨ Config.NMAX < s.width) :
    configure v auto s = .next (s.clearCfgv.finishError .unsupportedWidth) := by
  have hrange : widthInRange s.width = false := by
    rw [← Bool.not_eq_true, widthInRange_iff]
    omega
  exact if_pos (by rw [hrange, Bool.not_false])

section
variable (h1 : 1 ≤ s.width) (hmax : s.width ≤ Config.NMAX)
include h1 hmax

theorem not_widthOutOfRange : ¬(!widthInRange s.width) = true := by
  simp [widthInRange, h1, hmax]

theorem configure_even (heven : v = .mimc ∧ s.width % 2 = 0) :
    configure v auto s = .next (s.clearCfgv.finishError .cfgEvenWidth) :=
  (if_neg (not_widthOutOfRange h1 hmax)).trans (if_pos heven)

variable (hodd : ¬(v = .mimc ∧ s.width % 2 = 0))
include hodd

theorem configure_exponent (he : effectiveExponent v s < 2) :
    configure v auto s = .next (s.clearCfgv.finishError .cfgExponent) :=
  (if_neg (not_widthOutOfRange h1 hmax)).trans <| (if_neg hodd).trans (if_pos he)

theorem configure_notPerm (he : 2 ≤ effectiveExponent v s)
    (hgcd : Nat.gcd (effectiveExponent v s) (groupOrder s.width) ≠ 1) :
    configure v auto s = .next (s.clearCfgv.finishError .cfgNotPerm) :=
  (if_neg (not_widthOutOfRange h1 hmax)).trans <| (if_neg hodd).trans <| (if_neg (not_lt.2 he)).trans <|
    if_pos (euclid_eq_gcd _ _ ▸ hgcd)

end

/-- The checks of R171 that come before the round range, all passed. -/
structure ChecksPassed (v : Variant) (s : State) : Prop where
  width_pos : 1 ≤ s.width
  width_le : s.width ≤ Config.NMAX
  odd : ¬(v = .mimc ∧ s.width % 2 = 0)
  exponent : 2 ≤ effectiveExponent v s
  permutation : Nat.gcd (effectiveExponent v s) (groupOrder s.width) = 1

/-- R177: what the derived count loses, RRED for MiMCGn alone. -/
def reduction (v : Variant) (s : State) : Nat :=
  match v with
  | .gn => s.rred
  | .mimc | .mimc5 => 0

section
variable (h : ChecksPassed v s)
include h

/-- R179. -/
theorem configure_badCount (hcount : roundCount v auto (effectiveExponent v s) s.width s < 1 ∨
    Config.RMAX < (roundCount v auto (effectiveExponent v s) s.width s).toNat) :
    configure v auto s = .next (s.clearCfgv.finishError .cfgRounds) := by
  obtain ⟨h1, hmax, hodd, he, hgcd⟩ := h
  rw [← euclid_eq_gcd] at hgcd
  exact (if_neg (not_widthOutOfRange h1 hmax)).trans <| (if_neg hodd).trans <| (if_neg (not_lt.2 he)).trans <|
    (if_neg (not_not.2 hgcd)).trans (if_pos hcount)

/-- R180, R181: with a count in range CONFIG commits, because the decryption exponent is defined. -/
theorem configure_commits {count : Nat} (hcount : roundCount v auto (effectiveExponent v s) s.width s = count)
    (hpos : 1 ≤ count) (hle : count ≤ Config.RMAX) :
    ∃ d, dexp (effectiveExponent v s) s.width = some d ∧
      configure v auto s = .next (configCommit (effectiveExponent v s) count d s) := by
  obtain ⟨h1, hmax, hodd, he, hgcd⟩ := h
  obtain ⟨d, hd⟩ := (exists_dexp_iff _ s.width).2 ⟨he, hgcd⟩
  rw [← euclid_eq_gcd] at hgcd
  refine ⟨d, hd, ?_⟩
  refine (if_neg (not_widthOutOfRange h1 hmax)).trans <| (if_neg hodd).trans <| (if_neg (not_lt.2 he)).trans <|
    (if_neg (not_not.2 hgcd)).trans <| (if_neg ?_).trans ?_
  · rw [hcount]
    omega
  · rw [hd, hcount, Int.toNat_natCast]

theorem configure_supplied (hpos : 1 ≤ s.rounds) (hle : s.rounds ≤ Config.RMAX) :
    ∃ d, dexp (effectiveExponent v s) s.width = some d ∧
      configure v false s = .next (configCommit (effectiveExponent v s) s.rounds d s) :=
  configure_commits false h rfl hpos hle

/-- R177: the derived count less the reduction, negative when the reduction is the larger. -/
theorem roundCount_derived {r : Nat} (hr : IsSmallestCount (effectiveExponent v s) s.width r) :
    roundCount v true (effectiveExponent v s) s.width s = (r : Int) - reduction v s := by
  rw [← deriveRounds_eq h.exponent hr]
  cases v <;> rfl

/-- R179: a derived count that its reduction leaves positive is in range, because r <= n <= NMAX <= RMAX. -/
theorem configure_derived {r : Nat} (hr : IsSmallestCount (effectiveExponent v s) s.width r)
    (hred : reduction v s < r) :
    ∃ d, dexp (effectiveExponent v s) s.width = some d ∧
      configure v true s = .next (configCommit (effectiveExponent v s) (r - reduction v s) d s) := by
  have hle : r ≤ Config.RMAX :=
    calc r ≤ s.width := hr.le_width h.exponent h.width_pos
      _ ≤ Config.NMAX := h.width_le
      _ ≤ Config.RMAX := NMAX_le_RMAX
  refine configure_commits true h ?_ (by omega) (by omega)
  rw [roundCount_derived h hr, Nat.cast_sub hred.le]

end

/-- R173: for MiMC an odd width passes the checks, because 3 does not divide `M_n` then. -/
theorem three_coprime_groupOrder {n : Nat} (hodd : n % 2 = 1) : Nat.gcd 3 (groupOrder n) = 1 := by
  have hmod : 2 ^ n % 3 = 2 := by
    obtain ⟨k, rfl⟩ := Nat.odd_iff.2 hodd
    rw [pow_succ, pow_mul, Nat.mul_mod, Nat.pow_mod]
    simp
  have hsucc : groupOrder n + 1 = 2 ^ n := Nat.sub_add_cancel Nat.one_le_two_pow
  have hdvd : ¬3 ∣ groupOrder n := by
    rw [← hsucc] at hmod
    omega
  exact (Nat.Prime.coprime_iff_not_dvd Nat.prime_three).2 hdvd

section
variable (h1 : 1 ≤ s.width) (hmax : s.width ≤ Config.NMAX)
include h1 hmax

theorem checksPassed_gn (he : 2 ≤ s.e) (hgcd : Nat.gcd s.e (groupOrder s.width) = 1) : ChecksPassed .gn s :=
  ⟨h1, hmax, nofun, he, hgcd⟩

theorem checksPassed_mimc (hodd : s.width % 2 = 1) : ChecksPassed .mimc s :=
  ⟨h1, hmax, fun ⟨_, heven⟩ => by omega, Nat.le_succ 2, three_coprime_groupOrder hodd⟩

theorem checksPassed_mimc5 (hgcd : Nat.gcd 5 (groupOrder s.width) = 1) : ChecksPassed .mimc5 s :=
  ⟨h1, hmax, nofun, (by decide : 2 ≤ 5), hgcd⟩

end

end

end Sys2Proof.Laws
end

section
/-! The statements on CONFIG and its round count (44_cipher_sequencer.md). -/

namespace Sys2Proof.Proofs

open Sys2Proof.Machine Sys2Proof.Laws

/-- Settles O8: the search stops at the smallest count, and two smallest counts are equal. -/
theorem derivedRoundCountIsSmallest : Obligations.DerivedRoundCountIsSmallest := by
  intro e n he hn
  obtain ⟨hpos, hreaches, hleast⟩ := deriveRounds_isSmallestCount (n := n) he
  exact ⟨hpos, hreaches, hleast, deriveRounds_two hn, deriveRounds_eq_one he⟩

/-- Settles O46: each variant passes its checks, and the supplied count is in range. -/
theorem configSuppliedRoundsCommits : Obligations.ConfigSuppliedRoundsCommits := by
  intro s h1 hmax hpos hle
  refine ⟨fun he hgcd => ?_, fun hodd => ?_, fun hgcd => ?_⟩
  · exact configure_supplied (checksPassed_gn h1 hmax he hgcd) hpos hle
  · exact configure_supplied (checksPassed_mimc h1 hmax hodd) hpos hle
  · exact configure_supplied (checksPassed_mimc5 h1 hmax hgcd) hpos hle

/-- Settles O47: each variant passes its checks, and the derived count less its reduction is in range. -/
theorem configDerivedRoundsCommits : Obligations.ConfigDerivedRoundsCommits := by
  intro s r h1 hmax hr
  refine ⟨fun he hgcd hreaches hleast hred => ?_, fun hodd hreaches hleast => ?_, fun hgcd hreaches hleast => ?_⟩
  · exact configure_derived (checksPassed_gn h1 hmax he hgcd) ⟨hr, hreaches, hleast⟩ hred
  · exact configure_derived (checksPassed_mimc h1 hmax hodd) ⟨hr, hreaches, hleast⟩ hr
  · exact configure_derived (checksPassed_mimc5 h1 hmax hgcd) ⟨hr, hreaches, hleast⟩ hr

/-- Settles O48: the checks of CONFIG one by one, for all six words. -/
theorem configChecksInOrder : Obligations.ConfigChecksInOrder := by
  intro v auto s e he
  obtain rfl : e = effectiveExponent v s := he
  rw [exec_configInstr]
  exact ⟨configure_outside auto, fun h1 hmax => ⟨configure_even auto h1 hmax, configure_exponent auto h1 hmax,
    configure_notPerm auto h1 hmax⟩⟩

/-- Settles O49: past the earlier checks a count below 1, a reduced one included, or above RMAX fails. -/
theorem configRoundRange : Obligations.ConfigRoundRange := by
  intro v s e he h1 hmax hodd he2 hgcd
  obtain rfl : e = effectiveExponent v s := he
  have h : ChecksPassed v s := ⟨h1, hmax, hodd, he2, hgcd⟩
  refine ⟨fun hcount => ?_, fun r hv hr hreaches hleast hred => ?_⟩
  · rw [exec_configInstr]
    refine configure_badCount false h ?_
    change (s.rounds : Int) < 1 ∨ Config.RMAX < s.rounds
    omega
  · subst hv
    refine configure_badCount true h (.inl ?_)
    rw [roundCount_derived h ⟨hr, hreaches, hleast⟩]
    change (r : Int) - s.rred < 1
    omega

end Sys2Proof.Proofs
end

section
/-! SUPPORT. ENC and DEC: their preconditions (R184), their rounds as a fold over loaded constants (R182, R183), and the
fault at an unwritten one (R186). -/

namespace Sys2Proof.Laws

open Sys2Proof.Machine

/-! The entries that the two orders read. -/

theorem mem_encOrder_iff {r i : Nat} : i ∈ encOrder r ↔ i < r := List.mem_range

theorem mem_decOrder_iff {r i : Nat} : i ∈ decOrder r ↔ i < r := by
  refine ⟨lt_of_mem_decOrder, fun hi => List.mem_map.2 ?_⟩
  rcases Nat.eq_zero_or_pos i with rfl | hpos
  · exact ⟨0, List.mem_range.2 hi, if_pos rfl⟩
  · refine ⟨r - i, List.mem_range.2 (by omega), ?_⟩
    rw [if_neg (by omega)]
    omega

/-- R183: entry 0 first, then the others from the last down. -/
theorem decOrder_succ (r : Nat) : decOrder (r + 1) = 0 :: (List.range' 1 r).reverse := by
  rw [decOrder, List.range_succ_eq_map, List.map_cons, if_pos rfl, List.map_map, List.reverse_range']
  refine congrArg (0 :: ·) (List.map_congr_left fun j hj => ?_)
  have hj := List.mem_range.1 hj
  simp only [Function.comp_apply, Nat.succ_ne_zero, if_false]
  omega

/-! The rounds. -/

/-- One round with the constant of entry `i`: s -> (s XOR k XOR fe(c_i))^x. -/
def cipherRound (n p k : Nat) (c : Nat → Nat) (x : Nat) (st i : Nat) : Nat := gfPow n p (st ^^^ k ^^^ fe n (c i)) x

/-- The rounds over the entries of an order. -/
def cipherRounds (n p k : Nat) (c : Nat → Nat) (x : Nat) (order : List Nat) (st : Nat) : Nat :=
  order.foldl (cipherRound n p k c x) st

section
variable {n p k : Nat} (h : Config.IRRED n = some p) (hk : k < 2 ^ n)
include h hk

theorem cipherRound_lt (c : Nat → Nat) (x : Nat) {st : Nat} (hst : st < 2 ^ n) (i : Nat) :
    cipherRound n p k c x st i < 2 ^ n :=
  gfPow_lt h (Nat.xor_lt_two_pow (Nat.xor_lt_two_pow hst hk) (fe_lt _ _)) x

theorem cipherRounds_lt (c : Nat → Nat) (x : Nat) (order : List Nat) {st : Nat} (hst : st < 2 ^ n) :
    cipherRounds n p k c x order st < 2 ^ n := by
  induction order generalizing st with
  | nil => exact hst
  | cons i order ih => exact ih (cipherRound_lt h hk c x hst i)

/-- With every entry of the order loaded the rounds are the fold. -/
theorem runRounds_loaded {rc : Memory} {c : Nat → Nat} (x : Nat) {order : List Nat}
    (hread : ∀ i ∈ order, Memory.read rc i = some (c i)) {st : Nat} (hst : st < 2 ^ n) :
    runRounds n p rc k x order st = .ok (cipherRounds n p k c x order st) := by
  induction order generalizing st with
  | nil => rfl
  | cons i order ih =>
    obtain ⟨hi, hrest⟩ := List.forall_mem_cons.1 hread
    simp only [runRounds, hi]
    rw [roundPower_eq_gfPow h hst hk (fe_lt _ _)]
    exact ih hrest (cipherRound_lt h hk c x hst i)

end

/-- The rounds do not pass an entry of the order that no host write has reached. -/
theorem runRounds_unwritten {n p k x j : Nat} {rc : Memory} {order : List Nat} (hj : j ∈ order)
    (hread : Memory.read rc j = none) (st : Nat) : ∃ i, runRounds n p rc k x order st = .error i := by
  induction order generalizing st with
  | nil => cases hj
  | cons i order ih =>
    rw [runRounds]
    split
    next => exact ⟨i, rfl⟩
    next c hi =>
      rcases List.mem_cons.1 hj with rfl | hmem
      · cases hread.symm.trans hi
      · exact ih hmem _

/-! The preconditions (R184). -/

section
variable {s : State} (order : List Nat) (x : Nat)

theorem cipherCommand_notConfigured (h1 : 1 ≤ s.width) (hmax : s.width ≤ Config.NMAX) (hcfgv : s.cfgv = false) :
    cipherCommand order x s = .next (s.finishError .notConfigured) := by
  rw [cipherCommand, withWidth_inside h1 hmax, cipherRule, if_neg (by simp [hcfgv]), raiseError_eq]

/-- The table has no entry at a width out of range, so its absence and R107's check have one outcome. -/
theorem cipherCommand_noTable (hcfgv : s.cfgv = true) (hp : Config.IRRED s.width = none) :
    cipherCommand order x s = .next (s.finishError .unsupportedWidth) := by
  rcases withWidth_cases s (cipherRule order x s) with ⟨-, -, heq⟩ | ⟨-, heq⟩
  · rw [cipherCommand, heq, cipherRule, if_pos hcfgv, withTable_none hp]
  · exact heq

section
variable {p : Nat} (h1 : 1 ≤ s.width) (hmax : s.width ≤ Config.NMAX) (hp : Config.IRRED s.width = some p)
  (hcfgv : s.cfgv = true)
include h1 hmax hp hcfgv

theorem cipherCommand_inside : cipherCommand order x s = cipherResult order x s s.width p := by
  rw [cipherCommand, withWidth_inside h1 hmax, cipherRule, if_pos hcfgv, withTable_some hp]

theorem cipherCommand_loaded {c : Nat → Nat} (hread : ∀ i ∈ order, Memory.read s.rc i = some (c i)) :
    cipherCommand order x s = .next (s.finishResult
      (cipherRounds s.width p (fe s.width s.k) c x order (fe s.width s.a) ^^^ fe s.width s.k)) := by
  rw [cipherCommand_inside order x h1 hmax hp hcfgv, cipherResult, runRounds_loaded hp (fe_lt _ _) x hread (fe_lt _ _)]

theorem exec_enc_loaded {c : Nat → Nat} (hread : ∀ i < s.rounds, Memory.read s.rc i = some (c i)) :
    exec .enc s = .next (s.finishResult
      (cipherRounds s.width p (fe s.width s.k) c s.e (encOrder s.rounds) (fe s.width s.a) ^^^ fe s.width s.k)) :=
  cipherCommand_loaded _ _ h1 hmax hp hcfgv fun i hi => hread i (mem_encOrder_iff.1 hi)

theorem exec_dec_loaded {c : Nat → Nat} (hread : ∀ i < s.rounds, Memory.read s.rc i = some (c i)) :
    exec .dec s = .next (s.finishResult
      (cipherRounds s.width p (fe s.width s.k) c s.d (decOrder s.rounds) (fe s.width s.a) ^^^ fe s.width s.k)) :=
  cipherCommand_loaded _ _ h1 hmax hp hcfgv fun i hi => hread i (mem_decOrder_iff.1 hi)

/-- R186: an order that reads every entry below `r` faults on an unwritten one, which is not entry 0 (R32). -/
theorem cipherCommand_unwritten {r j : Nat} (horder : ∀ i, i ∈ order ↔ i < r) (hj : j < r)
    (hread : Memory.read s.rc j = none) :
    ∃ f, cipherCommand order x s = .fault (.rcEntryUnwritten f) ∧ 1 ≤ f ∧ f < r ∧ Memory.read s.rc f = none := by
  obtain ⟨f, hrun⟩ := runRounds_unwritten ((horder j).2 hj) hread (fe s.width s.a)
  obtain ⟨hmem, hf⟩ := runRounds_error hrun
  refine ⟨f, ?_, Nat.one_le_iff_ne_zero.2 ?_, (horder f).1 hmem, hf⟩
  · rw [cipherCommand_inside order x h1 hmax hp hcfgv, cipherResult, hrun]
  · rintro rfl
    cases hf

end

end

end Sys2Proof.Laws
end

section
/-! SUPPORT. Decryption undoes encryption (R185), round by round from the last, and the operands of the two commands. -/

namespace Sys2Proof.Laws

open Sys2Proof.Machine

theorem fe_of_lt {n v : Nat} (h : v < 2 ^ n) : fe n v = v := trunc_of_lt h

/-- What an entry of RC holds, with 0 for one that no host write has reached. -/
def entryValue (rc : Memory) (i : Nat) : Nat := (Memory.read rc i).getD 0

/-- With its constants loaded a cipher command reads a value at every entry below r, at entry 0 by R32. -/
theorem read_eq_entryValue {s : State} (h : s.ConstantsLoaded) {i : Nat} (hi : i < s.rounds) :
    Memory.read s.rc i = some (entryValue s.rc i) := by
  rcases Nat.eq_zero_or_pos i with rfl | hpos
  · rfl
  · obtain ⟨v, hv⟩ := Option.isSome_iff_exists.1 (h i hpos hi)
    rw [entryValue, hv, Option.getD_some]

/-- R185: the host's next operand of DEC is the result just computed, under the same key. -/
def feedResult (s : State) : State := { s with a := s.r }

section
variable {n p e d k m : Nat} (h : Config.IRRED n = some p) (hd : dexp e n = some d) (hk : k < 2 ^ n) (hm : m < 2 ^ n)
  (c : Nat → Nat)

/-- Adding the key and a constant twice adds nothing. -/
theorem xor_xor_cancel_pair (a b c : Nat) : a ^^^ b ^^^ c ^^^ b ^^^ c = a := by
  rw [Nat.xor_right_comm a b c, Nat.xor_xor_cancel_right, Nat.xor_xor_cancel_right]

/-- The state of ENC after `r` rounds. -/
theorem cipherRounds_encOrder_succ (r : Nat) :
    cipherRounds n p k c e (encOrder (r + 1)) m =
      gfPow n p (cipherRounds n p k c e (encOrder r) m ^^^ k ^^^ fe n (c r)) e := by
  rw [cipherRounds, encOrder, List.range_succ, List.foldl_concat]
  rfl

include h hd hk hm

/-- The power by D takes a state of ENC back to the sum that its last round raised to E. -/
theorem gfPow_cipherRounds_encOrder_succ (r : Nat) :
    gfPow n p (cipherRounds n p k c e (encOrder (r + 1)) m) d =
      cipherRounds n p k c e (encOrder r) m ^^^ k ^^^ fe n (c r) := by
  have hst : cipherRounds n p k c e (encOrder r) m < 2 ^ n := cipherRounds_lt h hk c e _ hm
  rw [cipherRounds_encOrder_succ]
  exact gfPow_gfPow_dexp h hd (Nat.xor_lt_two_pow (Nat.xor_lt_two_pow hst hk) (fe_lt _ _))

/-- The rounds of DEC over the entries r, r-1, ..., 1 undo the rounds of ENC from the last down to the second. -/
theorem cipherRounds_reverse (r : Nat) :
    cipherRounds n p k c d (List.range' 1 r).reverse (cipherRounds n p k c e (encOrder r) m ^^^ k ^^^ fe n (c r)) =
      m ^^^ k ^^^ fe n (c 0) := by
  induction r with
  | zero => rfl
  | succ r ih =>
    rw [← ih, List.range'_1_concat, List.reverse_concat, Nat.add_comm 1 r,
      ← gfPow_cipherRounds_encOrder_succ h hd hk hm c r]
    simp only [cipherRounds, List.foldl_cons, cipherRound, xor_xor_cancel_pair]

/-- R185: "DEC" of what ENC gave, key additions included; entry 0 is 0 (R32). -/
theorem cipherRounds_decOrder_encOrder {r : Nat} (hr : 1 ≤ r) (hc : c 0 = 0) :
    cipherRounds n p k c d (decOrder r) (cipherRounds n p k c e (encOrder r) m ^^^ k) ^^^ k = m := by
  obtain ⟨r, rfl⟩ := Nat.exists_eq_add_of_le' hr
  have hzero : fe n (c 0) = 0 := by rw [hc, fe_eq_mod, Nat.zero_mod]
  have hfirst : cipherRound n p k c d (cipherRounds n p k c e (encOrder (r + 1)) m ^^^ k) 0 =
      cipherRounds n p k c e (encOrder r) m ^^^ k ^^^ fe n (c r) := by
    rw [cipherRound, hzero, Nat.xor_zero, Nat.xor_xor_cancel_right, gfPow_cipherRounds_encOrder_succ h hd hk hm]
  have hrest := cipherRounds_reverse h hd hk hm c r
  rw [← hfirst, hzero, Nat.xor_zero] at hrest
  rw [decOrder_succ]
  exact (congrArg (· ^^^ k) hrest).trans (Nat.xor_xor_cancel_right m k)

end

end Sys2Proof.Laws
end

section
/-! The statements on ENC and DEC (44_cipher_sequencer.md). -/

namespace Sys2Proof.Proofs

open Sys2Proof.Machine Sys2Proof.Laws

/-- Settles O50: with every entry loaded, ENC's rounds are a fold over 0, 1, ..., r-1. -/
theorem encCompletes : Obligations.EncCompletes := by
  intro s p c h1 hmax hp hcfgv hread
  simp only [← fe_eq_mod]
  exact exec_enc_loaded h1 hmax hp hcfgv hread

/-- Settles O51: with every entry loaded, DEC's rounds are a fold over 0, r-1, ..., 1. -/
theorem decCompletes : Obligations.DecCompletes := by
  intro s p c h1 hmax hp hcfgv hread
  simp only [← fe_eq_mod]
  rw [exec_dec_loaded h1 hmax hp hcfgv hread, cipherRounds, decOrder, List.foldl_map]
  rfl

/-- Settles O53: both orders read every entry below r, so one that is unwritten stops the rounds. -/
theorem unwrittenConstantFaults : Obligations.UnwrittenConstantFaults := by
  intro i hi s p j h1 hmax hp hcfgv _ hj hread
  rcases List.mem_pair.1 hi with rfl | rfl
  · exact cipherCommand_unwritten _ _ h1 hmax hp hcfgv (fun _ => mem_encOrder_iff) hj hread
  · exact cipherCommand_unwritten _ _ h1 hmax hp hcfgv (fun _ => mem_decOrder_iff) hj hread

/-- Settles O52: the two preconditions, for either order. -/
theorem cipherPreconditionsInOrder : Obligations.CipherPreconditionsInOrder := by
  intro i hi s
  rcases List.mem_pair.1 hi with rfl | rfl
  · exact ⟨cipherCommand_notConfigured _ _, cipherCommand_noTable _ _⟩
  · exact ⟨cipherCommand_notConfigured _ _, cipherCommand_noTable _ _⟩

/-- Settles O54: the inverse exponent of R39 undoes each round of ENC, and the last key addition of DEC the first. -/
theorem decryptOfEncrypt : Obligations.DecryptOfEncrypt := by
  intro s p hinv hcfgv hp hloaded
  obtain ⟨h1, hmax, -, -, hd, hpos, -⟩ := hinv.config hcfgv
  have hk : fe s.width s.k < 2 ^ s.width := fe_lt _ _
  have hm : fe s.width s.a < 2 ^ s.width := fe_lt _ _
  have hr := Nat.xor_lt_two_pow (cipherRounds_lt hp hk (entryValue s.rc) s.e (encOrder s.rounds) hm) hk
  refine ⟨_, _, exec_enc_loaded h1 hmax hp hcfgv (fun _ => read_eq_entryValue hloaded),
    exec_dec_loaded (s := feedResult (s.finishResult _)) h1 hmax hp hcfgv (fun _ => read_eq_entryValue hloaded), ?_⟩
  have hround := cipherRounds_decOrder_encOrder hp hd hk hm (entryValue s.rc) hpos rfl
  rw [← fe_of_lt hr] at hround
  exact hround.trans (fe_eq_mod _ _)

end Sys2Proof.Proofs
end

section
/-! SUPPORT. The errors a command can raise (R202 to R206, R210), and the fields of STATUS that only an acceptance or a
reset clears (R212, R215). -/

namespace Sys2Proof.Laws

open Sys2Proof.Machine

/-! The errors of each command. -/

/-- The outcome leaves ERRCODE as it was in `s`, or sets it to one of `codes`. -/
def RaisesOnly (codes : List ErrCode) (s : State) (o : Result) : Prop :=
  ∀ t, o = .next t → t.errcode = s.errcode ∨ t.errcode ∈ codes

/-- The error codes of each command (R202 to R206, R210). CONFIG has no NO_DEXP, because its decryption exponent is
defined after its checks (R180). -/
def errorsOf : Instr → List ErrCode
  | .nop | .hostwr _ _ | .hostrd _ => []
  | .illegal _ => [.illegalCmd]
  | .add | .mul | .pow | .pown | .gcd | .permchk | .kadd | .round | .iround => [.unsupportedWidth]
  | .dexp => [.unsupportedWidth, .noDexp]
  | .configGn | .configMimc | .configMimc5 | .configGnAuto | .configMimcAuto | .configMimc5Auto =>
    [.unsupportedWidth, .cfgEvenWidth, .cfgExponent, .cfgNotPerm, .cfgRounds]
  | .enc | .dec => [.unsupportedWidth, .notConfigured]

/-- R206: NO_DEXP is among the codes of DEXP alone. -/
theorem noDexp_not_mem_errorsOf {i : Instr} (hi : i ≠ .dexp) : .noDexp ∉ errorsOf i := by
  cases i with
  | dexp => exact absurd rfl hi
  | _ => simp [errorsOf]

section
variable {codes : List ErrCode} {s t : State}

theorem raisesOnly_unchanged (h : t.errcode = s.errcode) : RaisesOnly codes s (.next t) := by
  rintro _ ⟨⟩
  exact .inl h

theorem raisesOnly_error {c : ErrCode} (hc : c ∈ codes) (s' : State) :
    RaisesOnly codes s (.next (s'.finishError c)) := by
  rintro _ ⟨⟩
  exact .inr hc

theorem raisesOnly_withWidth (hc : .unsupportedWidth ∈ codes) {rule : Nat → Result}
    (hrule : RaisesOnly codes s (rule s.width)) : RaisesOnly codes s (withWidth s rule) := by
  rcases withWidth_cases s rule with ⟨-, -, heq⟩ | ⟨-, heq⟩
  · rwa [heq]
  · rw [heq]
    exact raisesOnly_error hc s

theorem raisesOnly_withTable (hc : .unsupportedWidth ∈ codes) {n : Nat} {rule : Nat → Result}
    (hrule : ∀ p, RaisesOnly codes s (rule p)) : RaisesOnly codes s (withTable n s rule) := by
  rcases withTable_cases n s rule with ⟨p, -, heq⟩ | ⟨-, heq⟩
  · rw [heq]
    exact hrule p
  · rw [heq]
    exact raisesOnly_error hc s

end

theorem raisesOnly_plainCommand (s : State) (value : Nat → Nat) :
    RaisesOnly [.unsupportedWidth] s (plainCommand s value) :=
  raisesOnly_withWidth (by simp) (raisesOnly_unchanged rfl)

theorem raisesOnly_fieldCommand (s : State) (value : Nat → Nat → Nat) :
    RaisesOnly [.unsupportedWidth] s (fieldCommand s value) :=
  raisesOnly_withWidth (by simp) (raisesOnly_withTable (by simp) fun _ => raisesOnly_unchanged rfl)

theorem raisesOnly_execPermchk (s : State) : RaisesOnly [.unsupportedWidth] s (execPermchk s) :=
  raisesOnly_withWidth (by simp) (raisesOnly_unchanged rfl)

theorem raisesOnly_execDexp (s : State) : RaisesOnly [.unsupportedWidth, .noDexp] s (execDexp s) := by
  refine raisesOnly_withWidth (by simp) ?_
  split
  · exact raisesOnly_error (by simp) s
  · exact raisesOnly_unchanged rfl

theorem raisesOnly_cipherCommand (order : List Nat) (x : Nat) (s : State) :
    RaisesOnly [.unsupportedWidth, .notConfigured] s (cipherCommand order x s) := by
  refine raisesOnly_withWidth (by simp) ?_
  rw [cipherRule]
  split
  · refine raisesOnly_withTable (by simp) fun p => ?_
    rw [cipherResult]
    split
    · exact nofun
    · exact raisesOnly_unchanged rfl
  · exact raisesOnly_error (by simp) s

/-- The codes of CONFIG's failing checks, in R210's order; past them it commits (R180). -/
theorem raisesOnly_configure (v : Variant) (auto : Bool) (s : State) :
    RaisesOnly [.unsupportedWidth, .cfgEvenWidth, .cfgExponent, .cfgNotPerm, .cfgRounds] s (configure v auto s) := by
  by_cases hw : s.width = 0 ∨ Config.NMAX < s.width
  · rw [configure_outside auto hw]
    exact raisesOnly_error (by simp) _
  obtain ⟨h1, hmax⟩ : 1 ≤ s.width ∧ s.width ≤ Config.NMAX := by omega
  by_cases heven : v = .mimc ∧ s.width % 2 = 0
  · rw [configure_even auto h1 hmax heven]
    exact raisesOnly_error (by simp) _
  by_cases he : effectiveExponent v s < 2
  · rw [configure_exponent auto h1 hmax heven he]
    exact raisesOnly_error (by simp) _
  rw [not_lt] at he
  by_cases hgcd : Nat.gcd (effectiveExponent v s) (groupOrder s.width) ≠ 1
  · rw [configure_notPerm auto h1 hmax heven he hgcd]
    exact raisesOnly_error (by simp) _
  rw [not_not] at hgcd
  have hchecks : ChecksPassed v s := ⟨h1, hmax, heven, he, hgcd⟩
  by_cases hcount : roundCount v auto (effectiveExponent v s) s.width s < 1 ∨
      Config.RMAX < (roundCount v auto (effectiveExponent v s) s.width s).toNat
  · rw [configure_badCount auto hchecks hcount]
    exact raisesOnly_error (by simp) _
  · obtain ⟨d, -, heq⟩ := configure_commits auto hchecks
      (count := (roundCount v auto (effectiveExponent v s) s.width s).toNat) (by omega) (by omega) (by omega)
    rw [heq]
    exact raisesOnly_unchanged rfl

/-- R201: a command sets ERRCODE to its own codes alone. -/
theorem raisesOnly_exec {i : Instr} (hi : i.isCommand = true) (s : State) :
    RaisesOnly (errorsOf i) s (exec i s) := by
  cases i with
  | nop => exact raisesOnly_unchanged rfl
  | illegal w => exact raisesOnly_error (by simp [errorsOf]) s
  | add => exact exec_add s ▸ raisesOnly_plainCommand s _
  | kadd => exact exec_kadd s ▸ raisesOnly_plainCommand s _
  | gcd => exact exec_gcd s ▸ raisesOnly_plainCommand s _
  | mul => exact exec_mul s ▸ raisesOnly_fieldCommand s _
  | pow => exact exec_pow s ▸ raisesOnly_fieldCommand s _
  | pown => exact exec_pown s ▸ raisesOnly_fieldCommand s _
  | round => exact exec_round s ▸ raisesOnly_fieldCommand s _
  | iround => exact exec_iround s ▸ raisesOnly_fieldCommand s _
  | permchk => exact raisesOnly_execPermchk s
  | dexp => exact raisesOnly_execDexp s
  | configGn => exact raisesOnly_configure .gn false s
  | configMimc => exact raisesOnly_configure .mimc false s
  | configMimc5 => exact raisesOnly_configure .mimc5 false s
  | configGnAuto => exact raisesOnly_configure .gn true s
  | configMimcAuto => exact raisesOnly_configure .mimc true s
  | configMimc5Auto => exact raisesOnly_configure .mimc5 true s
  | enc | dec => exact raisesOnly_cipherCommand _ _ s
  | hostwr | hostrd => cases hi

/-! The commands that raise UNSUPPORTED_WIDTH, and DEXP's own error. -/

section
variable {s : State}

/-- R107 step 2: every legal command but NOP and CONFIG begins with the width check. -/
theorem exists_exec_eq_withWidth {i : Instr}
    (hi : i ∈ [Instr.add, .mul, .pow, .pown, .gcd, .permchk, .dexp, .kadd, .round, .iround, .enc, .dec]) (s : State) :
    ∃ rule, exec i s = withWidth s rule := by
  simp only [List.mem_cons, List.not_mem_nil, or_false] at hi
  rcases hi with rfl | rfl | rfl | rfl | rfl | rfl | rfl | rfl | rfl | rfl | rfl | rfl
  · exact ⟨_, exec_add s⟩
  · exact ⟨_, exec_mul s⟩
  · exact ⟨_, exec_pow s⟩
  · exact ⟨_, exec_pown s⟩
  · exact ⟨_, exec_gcd s⟩
  · exact ⟨_, exec_permchk s⟩
  · exact ⟨_, by rw [exec, execDexp]⟩
  · exact ⟨_, exec_kadd s⟩
  · exact ⟨_, exec_round s⟩
  · exact ⟨_, exec_iround s⟩
  · exact ⟨_, rfl⟩
  · exact ⟨_, rfl⟩

/-- R121: the commands of the table that need no configuration. -/
theorem exists_exec_eq_fieldCommand {i : Instr} (hi : i ∈ [Instr.mul, .pow, .pown, .round, .iround]) (s : State) :
    ∃ value, exec i s = fieldCommand s value := by
  simp only [List.mem_cons, List.not_mem_nil, or_false] at hi
  rcases hi with rfl | rfl | rfl | rfl | rfl
  · exact ⟨_, exec_mul s⟩
  · exact ⟨_, exec_pow s⟩
  · exact ⟨_, exec_pown s⟩
  · exact ⟨_, exec_round s⟩
  · exact ⟨_, exec_iround s⟩

theorem fieldCommand_noTable (hp : Config.IRRED s.width = none) (value : Nat → Nat → Nat) :
    fieldCommand s value = .next (s.finishError .unsupportedWidth) := by
  rcases fieldCommand_cases s value with ⟨p, -, -, hsome, -⟩ | ⟨-, heq⟩
  · cases hp.symm.trans hsome
  · exact heq

theorem exec_dexp_none (h1 : 1 ≤ s.width) (hmax : s.width ≤ Config.NMAX) (hd : dexp s.e s.width = none) :
    exec .dexp s = .next (s.finishError .noDexp) := by
  rw [exec, execDexp, withWidth_inside h1 hmax]
  simp only [hd, raiseError_eq]

end

/-! What an edge clears in STATUS. -/

/-- From `s` to `t` no bit of DONE, ERR and OVR is cleared, and ERRCODE is not taken to 0. -/
structure StatusKept (s t : State) : Prop where
  done : s.done = true → t.done = true
  err : s.err = true → t.err = true
  ovr : s.ovr = true → t.ovr = true
  errcode : s.errcode ≠ .none → t.errcode ≠ .none

section
variable {s t u : State}

theorem StatusKept.refl (s : State) : StatusKept s s := ⟨id, id, id, id⟩

theorem StatusKept.trans (h : StatusKept s t) (h' : StatusKept t u) : StatusKept s u :=
  ⟨h'.done ∘ h.done, h'.err ∘ h.err, h'.ovr ∘ h.ovr, h'.errcode ∘ h.errcode⟩

theorem statusKept_withPort (s : State) (ports : List PortIn) : StatusKept s { s with port := ports } :=
  ⟨id, id, id, id⟩

/-- Keeping STATUS excludes every clearing that R212 and R215 speak of. -/
theorem StatusKept.not_cleared (h : StatusKept s t) :
    ¬((s.done = true ∧ t.done = false) ∨ (s.err = true ∧ t.err = false) ∨ (s.ovr = true ∧ t.ovr = false) ∨
      (s.errcode ≠ .none ∧ t.errcode = .none)) := by
  rintro (⟨hs, ht⟩ | ⟨hs, ht⟩ | ⟨hs, ht⟩ | ⟨hs, ht⟩)
  · exact absurd ((h.done hs).symm.trans ht) (by decide)
  · exact absurd ((h.err hs).symm.trans ht) (by decide)
  · exact absurd ((h.ovr hs).symm.trans ht) (by decide)
  · exact h.errcode hs ht

/-- R107: a completion sets DONE, and it sets ERR and ERRCODE only on an error. -/
theorem Completion.statusKept {i : Instr} (h : Completion s i t) : StatusKept s t := by
  cases h with
  | nop | result | permchk | dexp | configCommit => exact ⟨fun _ => rfl, id, id, id⟩
  | error _ hc => exact ⟨fun _ => rfl, fun _ => rfl, id, fun _ => hc⟩
  | configError _ _ hc => exact ⟨fun _ => rfl, fun _ => rfl, id, fun _ => hc⟩

theorem pendingEdge_statusKept {before : Option Pending} (h : pendingEdge before s = .next t) : StatusKept s t := by
  rcases pendingEdge_cases h with ⟨-, rfl⟩ | ⟨q, -, -, rfl⟩ | ⟨q, -, -, hcompl⟩
  · exact .refl _
  · exact ⟨id, id, id, id⟩
  · exact hcompl.statusKept

theorem rcWrite_statusKept (v : Nat) (s : State) : StatusKept s (rcWrite v s) := by
  unfold rcWrite
  split
  · exact ⟨id, id, id, id⟩
  · exact .refl s

/-- R105: of the host writes while idle, only the one to CMD clears anything. -/
theorem hostWriteIdle_statusKept {addr : Addr} (haddr : addr ≠ 0x00#5) (v : Nat) (s : State) :
    StatusKept s (hostWriteIdle addr v s) := by
  unfold hostWriteIdle
  split
  case h_1 hzero => exact absurd (BitVec.eq_of_toNat_eq hzero) haddr
  case h_11 => exact rcWrite_statusKept v s
  all_goals exact ⟨id, id, id, id⟩

/-- All a transaction can do to STATUS: clear nothing, or accept a command. -/
theorem afterTxn_statusKept_or_accept (txn : Txn) (s : State) :
    StatusKept s (afterTxn txn s) ∨
    (s.pend = none ∧ ∃ w, txn = .write 0x00#5 w ∧ afterTxn txn s = accept (trunc Config.PW w) s) := by
  cases txn with
  | quiet => exact .inl (.refl s)
  | read addr => exact .inl ⟨id, id, id, id⟩
  | write addr v =>
    rw [afterTxn]
    cases hpend : s.pend with
    | some q =>
      rw [hostWrite_busy (by simp [hpend])]
      exact .inl ⟨id, id, fun _ => rfl, id⟩
    | none =>
      rw [hostWrite_idle hpend]
      by_cases haddr : addr = 0x00#5
      · subst haddr
        exact .inr ⟨rfl, v, rfl, rfl⟩
      · exact .inl (hostWriteIdle_statusKept haddr _ s)

end

end Sys2Proof.Laws
end

section
/-! The statements on errors (60_exceptions.md). -/

namespace Sys2Proof.Proofs

open Sys2Proof.Machine Sys2Proof.Laws

/-- Settles O31: a completion clears nothing, and of the transactions only the acceptance of a command does. -/
theorem statusClearedOnlyByAcceptOrReset : Obligations.StatusClearedOnlyByAcceptOrReset := by
  intro s t hstep hcleared
  rcases step_cases hstep with ⟨p, hp, hrst, -⟩ | ⟨txn, htxn, hedge⟩
  · exact ⟨p, hp, .inl hrst⟩
  · rcases afterTxn_statusKept_or_accept txn { s with port := s.port.tail } with hkept | ⟨hidle, w, rfl, haccept⟩
    · have hstepKept := (statusKept_withPort s s.port.tail).trans (hkept.trans (pendingEdge_statusKept hedge))
      exact absurd hcleared hstepKept.not_cleared
    · refine ⟨_, head?_of_headD htxn nofun, .inr ⟨hidle, ?_, w, rfl⟩⟩
      rw [haccept, show s.pend = none from hidle] at hedge
      cases hedge
      rfl

/-- Settles O43: DEXP's own branch, and the codes that the other commands can set. -/
theorem noDexpRaisedOnlyByDexp : Obligations.NoDexpRaisedOnlyByDexp := by
  refine ⟨fun s h1 hmax hd => exec_dexp_none h1 hmax hd, fun i s t hi hne h hs ht => ?_⟩
  rcases raisesOnly_exec hi s t h with hsame | hmem
  · exact hs (hsame.symm.trans ht)
  · exact noDexp_not_mem_errorsOf hne (ht ▸ hmem)

/-- Settles O55: the width check comes first in each command, and the table check next. -/
theorem unsupportedWidthRaised : Obligations.UnsupportedWidthRaised := by
  refine ⟨fun i hi s hout => ?_, fun v auto s hout => ?_, fun i hi s hp => ?_, fun i hi s => ?_⟩
  · obtain ⟨rule, heq⟩ := exists_exec_eq_withWidth hi s
    exact heq.trans (withWidth_outside hout rule)
  · exact (exec_configInstr v auto s).trans (configure_outside auto hout)
  · obtain ⟨value, heq⟩ := exists_exec_eq_fieldCommand hi s
    exact heq.trans (fieldCommand_noTable hp value)
  · exact (cipherPreconditionsInOrder i hi s).2

/-- Settles O56: of the completions only the two of an error have ERR = 1 where ERR was 0. -/
theorem errorsArePrecise : Obligations.ErrorsArePrecise := by
  intro i s t hi hs h ht
  cases exec_completion hi h with
  | nop | result | permchk | dexp | configCommit => exact absurd (hs.symm.trans ht) (by decide)
  | error hconfig hc => exact ⟨rfl, hc, fun htrue => absurd (hconfig.symm.trans htrue) (by decide), fun _ => rfl⟩
  | configError v auto hc => exact ⟨rfl, hc, fun _ => rfl, fun hfalse => absurd hfalse (by simp)⟩

end Sys2Proof.Proofs
end

section
/-! SUPPORT. A reset edge (R230), and a pending command from edge to edge (R234 to R238): what the host's transactions leave
alone while it waits, and the edge at which it completes. -/

namespace Sys2Proof.Laws

open Sys2Proof.Machine

section
variable {s t u : State}

/-! Reset. -/

/-- R230: whatever the transaction, a reset edge leaves the reset state but for the model's own three fields. -/
theorem exists_resetTxn_eq (txn : Txn) (s : State) :
    ∃ rdata freeCount,
      resetTxn txn s = { State.reset with port := s.port, rdata := rdata, freeCount := freeCount } := by
  cases txn <;> exact ⟨_, _, rfl⟩

theorem step_reset {p : PortIn} {rest : List PortIn} (hport : s.port = p :: rest) (hrst : p.rst = true) :
    step s = .next (resetTxn p.txn { s with port := rest }) := by
  rw [step_eq_edge, hport]
  exact if_pos hrst

/-! Completion. -/

/-- R107: every completion ends BUSY and sets DONE, and none touches OVR. -/
theorem Completion.finished {i : Instr} (h : Completion s i t) : t.ovr = s.ovr ∧ t.pend = none ∧ t.done = true := by
  cases h <;> exact ⟨rfl, rfl, rfl⟩

/-- The completion edge of a word, with any transaction. -/
theorem pendingEdge_completes {q : Pending} (hq : q.cyclesLeft ≤ 1) (s : State) :
    pendingEdge (some q) s = exec (decodeCmd q.word) s := if_pos hq

/-- R234: an edge before the completion edge, with any transaction. -/
theorem pendingEdge_waits {q : Pending} (hq : 2 ≤ q.cyclesLeft) (s : State) :
    pendingEdge (some q) s = .next (countDown q s) := if_neg (by omega)

/-! The registers while a command waits. -/

/-- R236: `t` is `s` but for OVR, the pending command's count and the model's own fields. -/
def HeldSince (s t : State) : Prop :=
  ∃ pend ovr rdata freeCount port,
    t = { s with pend := pend, ovr := ovr, rdata := rdata, freeCount := freeCount, port := port }

theorem HeldSince.refl (s : State) : HeldSince s s := ⟨_, _, _, _, _, rfl⟩

theorem HeldSince.trans (h : HeldSince s t) (h' : HeldSince t u) : HeldSince s u := by
  obtain ⟨_, _, _, _, _, rfl⟩ := h
  obtain ⟨_, _, _, _, _, rfl⟩ := h'
  exact ⟨_, _, _, _, _, rfl⟩

theorem HeldSince.done_eq (h : HeldSince s t) : t.done = s.done := by
  obtain ⟨_, _, _, _, _, rfl⟩ := h
  rfl

/-- Holding, with what is known of the pending command and of the inputs to come. -/
theorem HeldSince.eq_of_pend_port {q : Option Pending} {ports : List PortIn} (h : HeldSince s t) (hpend : t.pend = q)
    (hport : t.port = ports) :
    t = { s with pend := q, ovr := t.ovr, rdata := t.rdata, freeCount := t.freeCount, port := ports } := by
  obtain ⟨_, _, _, _, _, rfl⟩ := h
  subst hpend hport
  rfl

theorem heldSince_withPort (s : State) (ports : List PortIn) : HeldSince s { s with port := ports } :=
  ⟨_, _, _, _, _, rfl⟩

theorem heldSince_countDown (q : Pending) (s : State) : HeldSince s (countDown q s) := ⟨_, _, _, _, _, rfl⟩

/-- R235, R65: while BUSY = 1 a write sets OVR alone, and a read changes no state of the unit. -/
theorem heldSince_afterTxn (hbusy : s.pend.isSome = true) (txn : Txn) : HeldSince s (afterTxn txn s) := by
  cases txn with
  | quiet => exact .refl s
  | read addr => exact ⟨_, _, _, _, _, rfl⟩
  | write addr v =>
    rw [afterTxn, hostWrite_busy hbusy]
    exact ⟨_, _, _, _, _, rfl⟩

theorem afterTxn_port_of_busy (hbusy : s.pend.isSome = true) (txn : Txn) : (afterTxn txn s).port = s.port := by
  cases txn with
  | quiet | read addr => rfl
  | write addr v => rw [afterTxn, hostWrite_busy hbusy, setOverrun_port]

/-! The edges of a pending command. -/

/-- The input of an edge without reset is a transaction, the quiet one when no input is listed. -/
theorem exists_headD_txn {ports : List PortIn} (hrst : ∀ p, ports.head? = some p → p.rst = false) :
    ∃ txn, ports.headD ⟨false, .quiet⟩ = ⟨false, txn⟩ := by
  cases ports with
  | nil => exact ⟨_, rfl⟩
  | cons p rest => exact ⟨p.txn, eq_mk_of_rst_eq_false (hrst p rfl)⟩

theorem rst_eq_false_of_head?_drop {ports : List PortIn} (hrst : ∀ p ∈ ports, p.rst = false) (j : Nat) :
    ∀ p, (ports.drop j).head? = some p → p.rst = false :=
  fun p hp => hrst p (List.mem_of_mem_drop (List.mem_of_head? hp))

/-- Any edge without reset while a command is pending: the command's part, on registers that the transaction held. -/
theorem step_pending {q : Pending} (hpend : s.pend = some q) (hrst : ∀ p, s.port.head? = some p → p.rst = false) :
    ∃ v, HeldSince s v ∧ v.pend = some q ∧ v.port = s.port.tail ∧ step s = pendingEdge (some q) v := by
  obtain ⟨txn, htxn⟩ := exists_headD_txn hrst
  let s' : State := { s with port := s.port.tail }
  have hpend' : s'.pend = some q := hpend
  have hbusy : s'.pend.isSome = true := Option.isSome_of_mem hpend'
  exact ⟨afterTxn txn s', (heldSince_withPort s _).trans (heldSince_afterTxn hbusy txn), afterTxn_pend hpend' txn,
    afterTxn_port_of_busy hbusy txn, hpend ▸ step_eq_pendingEdge htxn⟩

/-- R234, R236: an edge before the completion edge takes the command one cycle nearer and holds the rest. -/
theorem step_waits {q : Pending} (hpend : s.pend = some q) (hq : 2 ≤ q.cyclesLeft)
    (hrst : ∀ p, s.port.head? = some p → p.rst = false) :
    ∃ t, step s = .next t ∧ HeldSince s t ∧ t.pend = some ⟨q.word, q.cyclesLeft - 1⟩ ∧ t.port = s.port.tail := by
  obtain ⟨v, hheld, -, hport, hstep⟩ := step_pending hpend hrst
  exact ⟨_, hstep.trans (pendingEdge_waits hq v), hheld.trans (heldSince_countDown q v), rfl, hport⟩

/-- R238: a write at the completion edge sets OVR before the command runs, and does nothing else. -/
theorem step_completion_write {w c v : Nat} {addr : Addr} {rest : List PortIn} (hpend : s.pend = some ⟨w, c⟩)
    (hc : c ≤ 1) (hport : s.port = ⟨false, .write addr v⟩ :: rest) :
    step s = exec (decodeCmd w) { s with port := rest, ovr := true } := by
  have hhead : s.port.headD ⟨false, .quiet⟩ = ⟨false, .write addr v⟩ := by rw [hport]; rfl
  have hbusy : s.pend.isSome = true := Option.isSome_of_mem hpend
  have hwrite := hostWrite_busy (s := { s with port := s.port.tail }) hbusy addr v
  rw [step_eq_pendingEdge hhead, afterTxn, hwrite, hpend, pendingEdge_completes hc, hport]
  rfl

/-! Runs of a pending command. -/

/-- A run of one step more is a step of the state that the run reached. -/
theorem run_succ_of_run {M : Host.Core} {s t : M.State} {k : Nat} (h : M.run k s = .next t) :
    M.run (k + 1) s = M.step t := by
  induction k generalizing s with
  | zero =>
    cases h
    rw [Host.Core.run]
    cases M.step t <;> rfl
  | succ k ih =>
    rw [Host.Core.run] at h ⊢
    cases hstep : M.step s with
    | next s' =>
      rw [hstep] at h
      exact ih h
    | fault | refused =>
      rw [hstep] at h
      cases h

section
variable {w c : Nat} (hpend : s.pend = some ⟨w, c⟩) (hrst : ∀ p ∈ s.port, p.rst = false)
include hpend hrst

/-- R234: in each of the cycles before the completion edge the command still waits, and the registers hold. -/
theorem run_waits {j : Nat} (hj : j < c) :
    ∃ u, core.run j s = .next u ∧ HeldSince s u ∧ u.pend = some ⟨w, c - j⟩ ∧ u.port = s.port.drop j := by
  induction j with
  | zero => exact ⟨s, rfl, .refl s, hpend, rfl⟩
  | succ j ih =>
    obtain ⟨u, hrun, hheld, hupend, huport⟩ := ih (by omega)
    have hleft : 2 ≤ c - j := by omega
    obtain ⟨t, hstep, hheld', htpend, htport⟩ :=
      step_waits hupend hleft (huport ▸ rst_eq_false_of_head?_drop hrst j)
    refine ⟨t, (run_succ_of_run hrun).trans hstep, hheld.trans hheld', htpend, ?_⟩
    rw [htport, huport, List.tail_drop]

/-- R234: the completion edge runs the command, on registers that were held. -/
theorem run_completes (hc : 1 ≤ c) :
    ∃ v, HeldSince s v ∧ v.pend = some ⟨w, 1⟩ ∧ v.port = s.port.drop c ∧ core.run c s = exec (decodeCmd w) v := by
  obtain ⟨j, rfl⟩ := Nat.exists_eq_add_of_le' hc
  obtain ⟨u, hrun, hheld, hupend, huport⟩ := run_waits hpend hrst (Nat.lt_succ_self j)
  rw [Nat.add_sub_cancel_left] at hupend
  obtain ⟨v, hheld', hvpend, hvport, hstep⟩ :=
    step_pending hupend (huport ▸ rst_eq_false_of_head?_drop hrst j)
  have hlast : step u = exec (decodeCmd w) v := hstep.trans (pendingEdge_completes le_rfl v)
  refine ⟨v, hheld.trans hheld', hvpend, ?_, (run_succ_of_run hrun).trans hlast⟩
  rw [hvport, huport, List.tail_drop]

end

end

end Sys2Proof.Laws
end

section
/-! The statements on reset and on the edges of a pending command (70_reset_and_hazards.md). -/

namespace Sys2Proof.Proofs

open Sys2Proof.Machine Sys2Proof.Laws

/-- Settles O17: the write is the dropped one of R100. -/
theorem writeWhileBusyIsDropped : Obligations.WriteWhileBusyIsDropped :=
  fun addr v s hbusy => (exec_hostwr addr v s).trans (congrArg _ (hostWrite_busy hbusy addr v))

/-- Settles O30: whatever the transaction, the edge leaves the reset state, whose RC lists no entry. -/
theorem resetEdgeResetsEverything : Obligations.ResetEdgeResetsEverything := by
  intro s p rest hport hrst
  obtain ⟨rdata, freeCount, hreset⟩ := exists_resetTxn_eq p.txn { s with port := rest }
  exact ⟨_, (step_reset hport hrst).trans (congrArg _ hreset), rfl, rfl, rfl, rfl, rfl, rfl, rfl, rfl, rfl, rfl, rfl, rfl,
    rfl, rfl, rfl, rfl, rfl, rfl, read_zero _, fun i hi => read_pos hi _⟩

/-- Settles O27: no completion touches the OVR that the write set, and what clears it at the next edge is R212's. -/
theorem writeOnCompletionEdge : Obligations.WriteOnCompletionEdge := by
  intro s w c addr v rest hpend hc hport
  have hstep := step_completion_write hpend hc hport
  refine ⟨hstep, fun t ht => ?_⟩
  obtain ⟨hovr, hidle, hdone⟩ := (exec_completion (isCommand_decodeCmd w) (hstep.symm.trans ht)).finished
  refine ⟨hovr, hidle, hdone, fun u hu hcleared => ?_⟩
  obtain ⟨p, hp, hcause⟩ := statusClearedOnlyByAcceptOrReset t u hu (.inr (.inr (.inl ⟨hovr, hcleared⟩)))
  exact ⟨p, hp, hcause.imp_right fun ⟨_, _, hwrite⟩ => hwrite⟩

/-- Settles O28: the edge takes the command one cycle nearer, and the registers it holds are those named. -/
theorem resultsHoldWhileBusy : Obligations.ResultsHoldWhileBusy := by
  intro s q hpend hq hrst
  obtain ⟨t, hstep, hheld, htpend, -⟩ := step_waits hpend hq hrst
  have hdone (hstatus : s.StatusOk) : t.done = false :=
    hheld.done_eq.trans (hstatus.busy (Option.isSome_of_mem hpend))
  obtain ⟨_, _, _, _, _, rfl⟩ := hheld
  exact ⟨_, hstep, htpend, rfl, rfl, rfl, rfl, rfl, rfl, hdone, rfl, rfl, rfl, rfl, rfl⟩

/-- Settles O29: the run from the accepting edge waits for LAT - 1 edges, and the next one is the completion. -/
theorem commandCompletesAfterLatency : Obligations.CommandCompletesAfterLatency := by
  intro s w rest hidle hw hport hrst
  have hpend : (accept w { s with port := rest }).pend = some ⟨w, Config.LAT w s.operands⟩ := rfl
  refine ⟨_, step_idle_write hidle hw hport, hpend, fun j hj => ?_, ?_⟩
  · obtain ⟨u, hrun, hheld, hupend, huport⟩ := run_waits hpend hrst hj
    exact ⟨u, hrun, Option.isSome_of_mem hupend, hheld.done_eq, hheld.eq_of_pend_port rfl huport⟩
  · obtain ⟨v, hheld, hvpend, hvport, hrun⟩ := run_completes hpend hrst (LAT_pos w s.operands)
    refine ⟨⟨v, hheld.eq_of_pend_port hvpend hvport, hrun⟩, fun u hu => ?_⟩
    exact (exec_completion (isCommand_decodeCmd w) (hrun.symm.trans hu)).finished.2

end Sys2Proof.Proofs
end
